-- ==== Sys2Proof/Word.lean ====
section
/-! DEFINITION. The word types of the block (00_scope.md R8). -/

namespace Sys2Proof

/-- The sample width `W = 32` of `ACC`, `OFFSET`, `MIN`, `MAX`, `RSP` and of the command operands (R8). -/
abbrev Word := BitVec 32

/-- The width of the tare sums `SUM[i]` (10_state.md R23). -/
abbrev WideSum := BitVec 56

/-- One command frame at the host port: `OP[67:64] ++ A[63:32] ++ B[31:0]` (30_encoding.md R48). -/
abbrev Frame := BitVec 68

/-- The N levels one `DIN()` returns, channel 0 first; `true` is HIGH (20_memory.md R36, R37). -/
abbrev Sample := List Bool

end Sys2Proof
end

