-- ==== Sys2Proof/Config.lean ====
section
/-! DEFINITION. The configuration of a block instance (00_scope.md R5 to R9) and the free value that stands for
the devices' answers (20_memory.md R36). -/

namespace Sys2Proof

/-- The parameters fixed at reset ("construction"), of which the block holds its own copy (R5, R6, R7).
Pin identifiers are opaque names in the spec; here they are numbers that are only ever compared. -/
structure Config where
  /-- `N`, the channel count (R5). -/
  n        : Nat
  /-- `DPIN[0..N-1]`, the data-line identifiers, channel 0 first (R6). -/
  dpin     : List Nat
  /-- `CPIN`, the clock-line identifier (R6). -/
  cpin     : Nat
  /-- `INIT_GAIN`, the initial gain selector; 128 when none is given (R7). -/
  initGain : Word := 128
  deriving DecidableEq, Repr

/-- The configuration `State.reset` is built for: four channels, default gain.
DESIGN CHOICE (notes/assumptions/1.md): the spec gives no default for `N`, `DPIN` or `CPIN`. -/
def Config.default : Config where
  n    := 4
  dpin := [0, 1, 2, 3]
  cpin := 4

/-- The direction a physical line is given at reset (20_memory.md R34). -/
inductive PinDirection where
  | output
  | input
  deriving DecidableEq, Repr

/-- R34: the clock line is an output and every data line is an input; no other line belongs to the block. -/
def Config.direction (c : Config) (pin : Nat) : Option PinDirection :=
  if pin = c.cpin then some .output else if pin ∈ c.dpin then some .input else none

/-- FREE VALUE (notes/assumptions/3.md): the level of channel `i`'s data line in the `j`-th `DIN()` the block
performs, where no scripted answer says otherwise. The spec constrains no answer of ENV (R36; U21 of
93_implementation_defined.md), so nothing can be proved of this constant. -/
opaque Config.envLevel : Nat → Nat → Bool

end Sys2Proof
end

