-- ==== Sys2Proof/Syntax.lean ====
section
/-! DEFINITION. The nine commands of the block (30_encoding.md R50, spec/opcode_table.json). -/

namespace Sys2Proof

/-- One constructor per row of the opcode map (R50). Operands are the frame's whole 32-bit fields (R49). -/
inductive Instr where
  /-- `READRAW`: sampling raw read (40_acquisition.md R69). -/
  | readraw
  /-- `READRAW.F`: flush read (R70). -/
  | readrawF
  /-- `READ`: offset-corrected sampling read (43_calibration.md R97). -/
  | read
  /-- `READ.F`: offset-corrected read with no buffer, a plain flush (R98). -/
  | readF
  /-- `TARE T, K`: calibration over `t` samples with tolerance `k` (R100). -/
  | tare (t k : Word)
  /-- `SETGAIN g`: gain configuration with selector `g` (41_gain.md R81). -/
  | setgain (g : Word)
  /-- `PWRUP`: power-up (42_power_query.md R90). -/
  | pwrup
  /-- `PWRDN`: power-down (R89). -/
  | pwrdn
  /-- `CHCNT`: channel count (R92). -/
  | chcnt
  deriving DecidableEq, Repr

/-- The mnemonics of R50 and R55. -/
def Instr.mnemonic : Instr → String
  | .readraw   => "READRAW"
  | .readrawF  => "READRAW.F"
  | .read      => "READ"
  | .readF     => "READ.F"
  | .tare _ _  => "TARE"
  | .setgain _ => "SETGAIN"
  | .pwrup     => "PWRUP"
  | .pwrdn     => "PWRDN"
  | .chcnt     => "CHCNT"

end Sys2Proof
end

