-- ==== Sys2Proof/WellFormed.lean ====
section
/-! DEFINITION. What makes a configuration and a command well formed: the checks of 00_scope.md R5 to R7, and the
one command the spec gives no meaning although it decodes (43_calibration.md R106). -/

namespace Sys2Proof

/-- R5: `1 <= N < 2^32`, and one data line per channel. -/
def Config.channelsOk (c : Config) : Bool :=
  1 ≤ c.n && c.n < 2 ^ 32 && c.dpin.length == c.n

/-- R6: the `N + 1` pin identifiers are pairwise distinct. -/
def Config.pinsDistinct (c : Config) : Bool :=
  decide (c.cpin :: c.dpin).Nodup

/-- R7: `INIT_GAIN` is one of the three selector values. -/
def Config.gainOk (c : Config) : Bool :=
  c.initGain == 128 || c.initGain == 64 || c.initGain == 32

/-- A configuration the spec gives a meaning (R5, R6, R7); any other is `BadConfiguration` (R119). -/
def Config.wellFormed (c : Config) : Bool :=
  c.channelsOk && c.pinsDistinct && c.gainOk

/-- A command the spec gives a meaning: every decodable command but a TARE of no samples, which "decodes and is then
refused at execution" (30_encoding.md R49, 43_calibration.md R106). -/
def Instr.wellFormed : Instr → Bool
  | .tare t _ => t ≠ 0
  | .readraw | .readrawF | .read | .readF | .setgain _ | .pwrup | .pwrdn | .chcnt => true

end Sys2Proof
end

