-- ==== Sys2Proof/Decode.lean ====
section
/-! DEFINITION. The decoder of the command frame, total on all 68-bit frames (30_encoding.md R48 to R52), and after
it the encoder written from the same table. -/

namespace Sys2Proof

/-- Bits 67:64 of a frame: the opcode (R48). -/
def Frame.op (f : Frame) : BitVec 4 := f.extractLsb' 64 4

/-- Bits 63:32 of a frame: the first operand, used whole (R48, R49). -/
def Frame.a (f : Frame) : Word := f.extractLsb' 32 32

/-- Bits 31:0 of a frame: the second operand, used whole (R48, R49). -/
def Frame.b (f : Frame) : Word := f.extractLsb' 0 32

/-- A frame from its three fields (R48). -/
def Frame.mk (op : BitVec 4) (a b : Word) : Frame := op ++ a ++ b

/-- Why a frame is reserved (R51): the three kinds of reserved frame, by name. -/
inductive DecodeError where
  /-- `OP` in `{0x0, 0x8 .. 0xF}`. -/
  | reservedOpcode
  /-- A first operand with bits set that the command requires to be 0. -/
  | operandA
  /-- A second operand with bits set that the command requires to be 0. -/
  | operandB
  deriving DecidableEq, Repr

/-- READRAW and READ read `A[0]` as the flush flag and require `A[31:1] = 0` and `B = 0` (R49). -/
def decodeFlushForm (sampling flush : Instr) (a b : Word) : Except DecodeError Instr :=
  if b ≠ 0 then .error .operandB
  else if a = 0 then .ok sampling
  else if a = 1 then .ok flush
  else .error .operandA

/-- PWRUP, PWRDN and CHCNT require `A = 0` and `B = 0` (R49). -/
def decodePlainForm (i : Instr) (a b : Word) : Except DecodeError Instr :=
  if b ≠ 0 then .error .operandB
  else if a ≠ 0 then .error .operandA
  else .ok i

/-- The decoder of R50 on a frame's three fields; a reserved frame is an error (R51). -/
def decodeFields (op : BitVec 4) (a b : Word) : Except DecodeError Instr :=
  if op = 0x1 then decodeFlushForm .readraw .readrawF a b
  else if op = 0x2 then decodeFlushForm .read .readF a b
  else if op = 0x3 then .ok (.tare a b)
  else if op = 0x4 then (if b ≠ 0 then .error .operandB else .ok (.setgain a))
  else if op = 0x5 then decodePlainForm .pwrup a b
  else if op = 0x6 then decodePlainForm .pwrdn a b
  else if op = 0x7 then decodePlainForm .chcnt a b
  else .error .reservedOpcode

/-- The decoder: every 68-bit frame is one of the nine commands or reserved (R51); no mode changes it (R52). -/
def decode (f : Frame) : Except DecodeError Instr :=
  decodeFields f.op f.a f.b

/-- The frame a table word holds in its low `nbits` bits. A frame has 68 bits; a word with a bit set above bit 67 is no
frame, and stands for the reserved frame 0 (notes/assumptions/14.md). -/
def frameOfTableWord (nbits w : Nat) : Frame :=
  if w % 2 ^ nbits < 2 ^ 68 then BitVec.ofNat 68 (w % 2 ^ nbits) else 0

/-- The command the decoder reads from a table word; none for a reserved frame. -/
def decodeTableWord (nbits w : Nat) : Option Instr :=
  (decode (frameOfTableWord nbits w)).toOption

/-- The opcode of a command: column `OP` of R50. -/
def Instr.opcode : Instr → BitVec 4
  | .readraw | .readrawF => 0x1
  | .read | .readF       => 0x2
  | .tare _ _            => 0x3
  | .setgain _           => 0x4
  | .pwrup               => 0x5
  | .pwrdn               => 0x6
  | .chcnt               => 0x7

/-- The first operand of a command: column `A` of R50. -/
def Instr.operandA : Instr → Word
  | .readrawF | .readF                              => 1
  | .tare t _                                       => t
  | .setgain g                                      => g
  | .readraw | .read | .pwrup | .pwrdn | .chcnt     => 0

/-- The second operand of a command: column `B` of R50. -/
def Instr.operandB : Instr → Word
  | .tare _ k => k
  | .readraw | .readrawF | .read | .readF | .setgain _ | .pwrup | .pwrdn | .chcnt => 0

/-- The encoder: the one frame of a command (R50). -/
def encode (i : Instr) : Frame :=
  Frame.mk i.opcode i.operandA i.operandB

/-- Columns `match` and `mask` of R50 for the row of a command. -/
def Instr.row : Instr → Frame × Frame
  | .readraw   => (0x10000000000000000, 0xFFFFFFFFFFFFFFFFF)
  | .readrawF  => (0x10000000100000000, 0xFFFFFFFFFFFFFFFFF)
  | .read      => (0x20000000000000000, 0xFFFFFFFFFFFFFFFFF)
  | .readF     => (0x20000000100000000, 0xFFFFFFFFFFFFFFFFF)
  | .tare _ _  => (0x30000000000000000, 0xF0000000000000000)
  | .setgain _ => (0x40000000000000000, 0xF00000000FFFFFFFF)
  | .pwrup     => (0x50000000000000000, 0xFFFFFFFFFFFFFFFFF)
  | .pwrdn     => (0x60000000000000000, 0xFFFFFFFFFFFFFFFFF)
  | .chcnt     => (0x70000000000000000, 0xFFFFFFFFFFFFFFFFF)

/-- R50: "a frame `f` is the command of a row exactly when `f & mask = match`". -/
def Instr.rowMatches (i : Instr) (f : Frame) : Bool :=
  f &&& i.row.2 == i.row.1

end Sys2Proof
end

