-- ==== Sys2Proof/Machine/State.lean ====
section
/-! DEFINITION. The state of the block as plain data (10_state.md), the inputs that stand for ENV and HOST, the reasons
a step can stop, and the state after reset (R28). -/

namespace Sys2Proof.Machine

/-- An event at the pins (00_scope.md R12). -/
inductive Event where
  /-- `CK(b)`: the level `b` is written to the clock output; redundant writes are events too. -/
  | ck (b : Bool)
  /-- `SMP(v)`: one simultaneous sample of the N data inputs with result `v`, channel 0 first. -/
  | smp (v : Sample)
  deriving DecidableEq, Repr

/-- The sequencer phases of 10_state.md R22. -/
inductive Phase where
  | idle | poll | dhi | dsmp | dlo | ghi | glo | ext | sub | stat | judge | pd0 | pd1 | fin
  deriving DecidableEq, Repr

/-- Everything the block holds for one channel (20_memory.md R39): `ACC[i]` (R13), `OFFSET[i]` (R14) and the tare
statistics `MIN[i]`, `MAX[i]`, `SUM[i]` (R23). -/
structure Lane where
  acc    : Word
  offset : Word
  min    : Word
  max    : Word
  sum    : WideSum
  deriving DecidableEq, Repr

/-- The sequencer state of R22, which stands in the place of a program counter. -/
structure Seq where
  phase : Phase
  /-- `K`, the data pulse index 0..23. -/
  k     : BitVec 5
  /-- `G`, the gain pulses already completed in this frame. -/
  g     : BitVec 2
  /-- `TC`, the tare samples already taken. -/
  tc    : Word
  /-- `SMPL`, set when the current frame samples. -/
  smpl  : Bool
  /-- `OPL`, the latched opcode. -/
  opl   : BitVec 4
  /-- `AL`, the latched first operand. -/
  al    : Word
  /-- `BL`, the latched second operand. -/
  bl    : Word
  deriving DecidableEq, Repr

/-- ENV, the devices, as an input (20_memory.md R36; notes/assumptions/3.md): the answers still to come, and how many
samples have been taken. A level the script does not give is the free value `Config.envLevel`. -/
structure Env where
  script : List Sample
  count  : Nat
  deriving DecidableEq, Repr

/-- The values a reset leaves unspecified (R28: "any 32-bit value, possibly different in each register"), as an input
of the reset (notes/assumptions/7.md). Of a lane all but `offset` is used, of `seq` all but `phase`, `opl`, `al`, `bl`,
`smpl`, which the reset sequence writes. -/
structure Unspecified where
  lanes : List Lane
  rsp   : Word
  seq   : Seq
  deriving DecidableEq, Repr

/-- What a reset is asked to do (70_reset_and_hazards.md R132): the configuration, and what the unspecified registers
turn out to hold. -/
structure ResetRequest where
  cfg  : Config
  junk : Unspecified
  deriving DecidableEq, Repr

/-- What the host will do at the port, as an input (30_encoding.md R48, 70_reset_and_hazards.md R140;
notes/assumptions/5.md). -/
inductive HostInput where
  /-- A frame the host presents once `BUSY = 0`, as R140 asks of it. -/
  | frameWhenIdle (f : Frame)
  /-- A frame presented at once, whatever `BUSY` is (R20, R119). -/
  | frameNow (f : Frame)
  /-- Reset asserted once `BUSY = 0` (R132). -/
  | resetWhenIdle (r : ResetRequest)
  /-- Reset asserted at once, whatever `BUSY` is (R132). -/
  | resetNow (r : ResetRequest)
  deriving DecidableEq, Repr

/-- The machine: the state of 10_state.md, the configuration it holds (00_scope.md R5 to R7), and the model's own
inputs and history (`env`, `host`, `trace`). -/
structure State where
  /-- The configuration, a copy the block owns (R6). -/
  cfg   : Config
  /-- One entry per channel, in channel order (R39). -/
  lanes : List Lane
  /-- `GAIN`, the pulse count itself (R16). -/
  gain  : BitVec 2
  /-- `SCK`, the clock output; `true` is HIGH (R18). -/
  sck   : Bool
  /-- `DEBUG` (R19). -/
  debug : Bool
  /-- `BUSY` (R20). -/
  busy  : Bool
  /-- `RSP` (R21). -/
  rsp   : Word
  /-- The sequencer (R22). -/
  seq   : Seq
  /-- MODEL: ENV's answers. -/
  env   : Env
  /-- MODEL: the host's script. -/
  host  : List HostInput
  /-- MODEL: the event trace, oldest first (R12). -/
  trace : List Event
  deriving DecidableEq, Repr

/-- Sequencer configurations that R72's table does not list: "A micro-step not listed does not exist". Each is a stuck
state, raised by `Machine/Sequencer.lean` only, and SAFE: no state meeting `State.Inv` raises one
(notes/assumptions/9.md). -/
inductive Fault where
  /-- `DSMP` with a pulse index above 23: `ACC[i][23-K]` names no bit. Raised by `microDsmp`; safe. -/
  | pulseIndexOutOfRange
  /-- `GHI` with `GAIN = 0`, "never held", trailing pulses "not defined" (R16). Raised by `microGhi`; safe. -/
  | gainNotDefined
  /-- `PD0` with a latched opcode that is none of PWRDN, PWRUP, SETGAIN. Raised by `microPd0`; safe. -/
  | noSuchMicroStep
  /-- `JUDGE` with a sample count of 0: a mean of no samples (R106). Raised by `microJudge`; safe. -/
  | meanOfNoSamples
  deriving DecidableEq, Repr

/-- Situations the spec gives no meaning (60_exceptions.md R119): the run ends with the mark. Every one is SAFE. -/
inductive Refusal where
  /-- An instruction without a meaning in this model; raised by `exec`'s arms only (none at present); safe. -/
  | notModelled (mnemonic : String)
  /-- `IllegalCommand`: a reserved frame (R51), with the decoder's reason. Raised by `present`; safe. -/
  | illegalCommand (why : DecodeError)
  /-- `TareZeroSamples`: TARE with `T = 0` (R106). Raised by `execTare`; safe. -/
  | tareZeroSamples
  /-- `CommandWhileBusy`: a frame presented while `BUSY = 1` (R20). Raised by `present` and `accept`; safe. -/
  | commandWhileBusy
  /-- `BadConfiguration`: a reset whose parameters break R5, R6 or R7. Raised by `beginReset`; safe. -/
  | badConfiguration
  /-- A reset asserted during a command, "likewise not given a meaning" (R119, R132). Raised by `beginReset`; safe. -/
  | resetWhileBusy
  deriving DecidableEq, Repr

/-- A lane with every register 0: `OFFSET` as R28 says, the others DESIGN CHOICE (notes/assumptions/2.md). -/
def Lane.zero : Lane where
  acc    := 0
  offset := 0
  min    := 0
  max    := 0
  sum    := 0

/-- The sequencer at rest: `PHASE = IDLE` as R28 says, the other fields DESIGN CHOICE (notes/assumptions/2.md). -/
def Seq.atRest : Seq where
  phase := .idle
  k     := 0
  g     := 0
  tc    := 0
  smpl  := false
  opl   := 0
  al    := 0
  bl    := 0

/-- The state after reset completes (R28, R135), for `Config.default`. `RSP` and the unspecified registers are 0:
DESIGN CHOICE (notes/assumptions/2.md). -/
def State.reset : State where
  cfg   := Config.default
  lanes := List.replicate Config.default.n Lane.zero
  gain  := 1
  sck   := false
  debug := false
  busy  := false
  rsp   := 0
  seq   := Seq.atRest
  env   := { script := [], count := 0 }
  host  := []
  trace := []

end Sys2Proof.Machine
end

