-- ==== Sys2Proof/Machine/Operands.lean ====
section
/-! DEFINITION. How a command's latched operands are read (30_encoding.md R49, 41_gain.md R80): whole 32-bit fields,
never sign-extended, scaled or shifted. -/

namespace Sys2Proof.Machine

/-- The selector map of R80, from a gain selector to a pulse count; every other value is invalid (R82). -/
def gainOfSelector (g : Word) : Option (BitVec 2) :=
  if g = 128 then some 1
  else if g = 64 then some 3
  else if g = 32 then some 2
  else none

/-- The `GAIN` register after a selector: "invalid inputs leave the mode unchanged" (R82). -/
def gainAfter (g : Word) (old : BitVec 2) : BitVec 2 :=
  (gainOfSelector g).getD old

/-- `T = AL`, the sample count of the TARE in progress, unsigned (R49, R72). -/
def State.tareCount (s : State) : Word := s.seq.al

/-- `K_tol = BL`, the tolerance of the TARE in progress, unsigned (R49, R72). -/
def State.tareTolerance (s : State) : Word := s.seq.bl

end Sys2Proof.Machine
end

