-- ==== Sys2Proof/Machine/Flags.lean ====
section
/-! DEFINITION. The block has no condition codes; it has two predicates (10_state.md R24): aggregate readiness, and the
tare verdict. -/

namespace Sys2Proof.Machine

/-- `RDY(v)`: `v = 0^N`, every channel's data line LOW in this one sample (R24, R37). -/
def ready (v : Sample) : Bool := v.all fun level => !level

/-- `max - min` of one channel, on mathematical integers (43_calibration.md R102). -/
def Lane.spread (l : Lane) : Int := l.max.toInt - l.min.toInt

/-- The stability check (R102): rejected exactly when `K != 0` and `T > 1` and some channel's spread exceeds `K`. -/
def tareRejects (t k : Word) (lanes : List Lane) : Bool :=
  k ≠ 0 && 1 < t.toNat && lanes.any fun l => (k.toNat : Int) < l.spread

/-- The verdict as `RSP` shows it: 1 for success, 0 for rejection (R54, R103, R104). -/
def verdictWord (rejected : Bool) : Word := if rejected then 0 else 1

end Sys2Proof.Machine
end

