-- ==== Sys2Proof/Machine/Ops.lean ====
section
/-! DEFINITION. The shared operations of the block: the two pin primitives (20_memory.md R35, R36), the bit write of
the shift-in (R63), the sign extension (R67), the offset subtraction (R97), the tare statistics and commit (R101, R103),
and the acceptance of a command (R72, `IDLE`).

The block has no memory (R33) and no trap mechanism: there is no exception to take and none to return from
(60_exceptions.md R114, R122, R123). -/

namespace Sys2Proof.Machine

/-! ### Bits and words -/

/-- `v[b] <- x`: one bit is set or cleared, the others keep their value (00_scope.md R11, R63). -/
def writeBit (w : Word) (b : Nat) (x : Bool) : Word :=
  if x then w ||| ((1 : Word) <<< b) else w &&& ~~~((1 : Word) <<< b)

/-- The sign extension of one register, by the document's two masks (R67). -/
def signExtend24 (w : Word) : Word :=
  if w.getLsbD 23 then w ||| 0xFF000000 else w &&& 0x00FFFFFF

/-- `min` by signed comparison (R101). -/
def signedMin (a b : Word) : Word := if b.slt a then b else a

/-- `max` by signed comparison (R101). -/
def signedMax (a b : Word) : Word := if a.slt b then b else a

/-- `tdiv(sum, T)` as a 32-bit register: the mean, rounded toward zero (00_scope.md R10, R101). -/
def meanWord (sum : WideSum) (t : Word) : Word :=
  BitVec.ofInt 32 (Int.tdiv sum.toInt t.toNat)

/-! ### Pins -/

/-- The levels the `j`-th `DIN()` from now answers, on channels 0 to N-1: the scripted ones, and the free value
where there is none (R36, R39). -/
def State.answer (s : State) (j : Nat) : Sample :=
  (List.range s.cfg.n).map fun i =>
    ((s.env.script[j]?.getD [])[i]?).getD (Config.envLevel (s.env.count + j) i)

/-- The value of `DIN()` performed now. -/
def State.din (s : State) : Sample := s.answer 0

/-- ENV after `c` more samples. -/
def Env.advance (e : Env) (c : Nat) : Env :=
  { script := e.script.drop c, count := e.count + c }

/-- The effect of `DIN()`: no register changes; the event `SMP(v)` is recorded and ENV's next answer is up (R36). -/
def State.sampled (s : State) : State :=
  { s with env := s.env.advance 1, trace := s.trace ++ [.smp s.din] }

/-- `SCK <- b`: the register, and the event `CK(b)`, redundant writes included (R35, R43). -/
def State.writeClock (s : State) (b : Bool) : State :=
  { s with sck := b, trace := s.trace ++ [.ck b] }

/-! ### Sequencer and files -/

/-- The next `PHASE`. -/
def State.goto (s : State) (p : Phase) : State :=
  { s with seq := { s.seq with phase := p } }

/-- The same change in every lane, in one micro-step; lanes never interact (R39). -/
def State.mapLanes (s : State) (f : Lane → Lane) : State :=
  { s with lanes := s.lanes.map f }

/-- Lane `i`'s bit of a sample: `v[i]` (R36, R39). -/
def Sample.lane (v : Sample) (i : Nat) : Bool := v[i]?.getD false

/-- For every `i`: `ACC[i][b] <- v[i]`, all from one sample (R63, R64). -/
def State.writeLaneBits (s : State) (b : Nat) (v : Sample) : State :=
  { s with lanes := s.lanes.mapIdx fun i l => { l with acc := writeBit l.acc b (Sample.lane v i) } }

/-- `SIGNEXT()` on one lane (R67). -/
def Lane.extend (l : Lane) : Lane := { l with acc := signExtend24 l.acc }

/-- `ACC[i] <- ACC[i] - OFFSET[i]`, modulo 2^32 (R97). -/
def Lane.correct (l : Lane) : Lane := { l with acc := l.acc - l.offset }

/-- The `STAT` update of one lane; `first` when `TC = 0` (R101). -/
def Lane.accumulate (l : Lane) (first : Bool) : Lane :=
  if first then { l with min := l.acc, max := l.acc, sum := l.acc.signExtend 56 }
  else { l with min := signedMin l.min l.acc, max := signedMax l.max l.acc, sum := l.sum + l.acc.signExtend 56 }

/-- `OFFSET[i] <- mean[i]` (R103). -/
def Lane.commit (l : Lane) (t : Word) : Lane := { l with offset := meanWord l.sum t }

/-! ### Commands -/

/-- The acceptance of a command in `IDLE` (R72): refused while `BUSY = 1` (R20); otherwise `OPL`, `AL`, `BL` are
latched, `BUSY <- 1`, and `start` performs the rest of the command's row. -/
def accept (i : Instr) (start : State → State) (s : State) : Host.Outcome State Fault Refusal :=
  if s.busy then .refused .commandWhileBusy
  else
    .next (start
      { s with
        busy := true
        seq := { s.seq with opl := i.opcode, al := i.operandA, bl := i.operandB } })

/-- The start of a frame: `SMPL` and the readiness wait (R72). -/
def State.startFrame (s : State) (smpl : Bool) : State :=
  { s with seq := { s.seq with smpl := smpl, phase := .poll } }

/-- The register writes of SETGAIN's row: `GAIN` by the selector, `SMPL <- 0`, then the LOW write (R72, R81, R82). -/
def State.startGain (s : State) (g : Word) : State :=
  { s with gain := gainAfter g s.gain, seq := { s.seq with smpl := false, phase := .pd0 } }

end Sys2Proof.Machine
end

