-- ==== Sys2Proof/Machine/Acquisition.lean ====
section
/-! DEFINITION. The acquisition family (40_acquisition.md): the accepted commands READRAW and READRAW.F. Their frames
are run by the sequencer (`Machine/Sequencer.lean`), one micro-step a step. -/

namespace Sys2Proof.Machine

/-- READRAW (R69, R72): a sampling frame begins with the readiness wait. -/
def execReadraw (s : State) : Host.Outcome State Fault Refusal :=
  accept .readraw (fun s => s.startFrame true) s

/-- READRAW.F (R70, R72): a flush frame, which waits for readiness all the same. -/
def execReadrawF (s : State) : Host.Outcome State Fault Refusal :=
  accept .readrawF (fun s => s.startFrame false) s

end Sys2Proof.Machine
end

