-- ==== Sys2Proof/Machine/Calibration.lean ====
section
/-! DEFINITION. The offset and calibration family (43_calibration.md): READ, READ.F, TARE. -/

namespace Sys2Proof.Machine

/-- READ (R97, R72): a sampling frame; the sequencer subtracts the offsets after it because `OPL` is READ. -/
def execRead (s : State) : Host.Outcome State Fault Refusal :=
  accept .read (fun s => s.startFrame true) s

/-- READ.F (R98, R72): in every respect a flush frame; nothing is subtracted. -/
def execReadF (s : State) : Host.Outcome State Fault Refusal :=
  accept .readF (fun s => s.startFrame false) s

/-- TARE `T, K` (R100, R72): `T = 0` is refused with no state changed (R106, C13); otherwise `TC <- 0` and the first of
`T` sampling frames begins. `BUSY` is looked at first (R121). -/
def execTare (t k : Word) (s : State) : Host.Outcome State Fault Refusal :=
  if t = 0 ∧ s.busy = false then .refused .tareZeroSamples
  else accept (.tare t k) (fun s => { s with seq := { s.seq with tc := 0 } }.startFrame true) s

end Sys2Proof.Machine
end

