-- ==== Sys2Proof/Machine/Gain.lean ====
section
/-! DEFINITION. The gain family (41_gain.md): SETGAIN. -/

namespace Sys2Proof.Machine

/-- SETGAIN `g` (R81, R82, R72): `GAIN` is written before the flush frame; an invalid selector leaves it unchanged and
still drives `SCK` LOW and flushes. -/
def execSetgain (g : Word) (s : State) : Host.Outcome State Fault Refusal :=
  accept (.setgain g) (fun s => s.startGain g) s

end Sys2Proof.Machine
end

