-- ==== Sys2Proof/Machine/PowerQuery.lean ====
section
/-! DEFINITION. The power and query family (42_power_query.md): PWRDN, PWRUP, CHCNT. -/

namespace Sys2Proof.Machine

/-- PWRUP (R90, R72): one LOW write, in `PD0`. -/
def execPwrup (s : State) : Host.Outcome State Fault Refusal :=
  accept .pwrup (fun s => s.goto .pd0) s

/-- PWRDN (R89, R72): a LOW write, then a HIGH write, in `PD0` and `PD1`. -/
def execPwrdn (s : State) : Host.Outcome State Fault Refusal :=
  accept .pwrdn (fun s => s.goto .pd0) s

/-- CHCNT (R92, R72): `RSP <- N`, with no pin event and no wait. -/
def execChcnt (s : State) : Host.Outcome State Fault Refusal :=
  accept .chcnt (fun s => { s with rsp := BitVec.ofNat 32 s.cfg.n }.goto .fin) s

end Sys2Proof.Machine
end

