-- ==== Sys2Proof/Machine/Dispatch.lean ====
section
/-! DEFINITION. The dispatch of the nine commands (30_encoding.md R50), one arm per constructor. -/

namespace Sys2Proof.Machine

def exec (i : Instr) (s : State) : Host.Outcome State Fault Refusal :=
  match i with
  | .readraw => Sys2Proof.Machine.execReadraw s
  | .readrawF => Sys2Proof.Machine.execReadrawF s
  | .read => Sys2Proof.Machine.execRead s
  | .readF => Sys2Proof.Machine.execReadF s
  | .tare t k => Sys2Proof.Machine.execTare t k s
  | .setgain g => Sys2Proof.Machine.execSetgain g s
  | .pwrup => Sys2Proof.Machine.execPwrup s
  | .pwrdn => Sys2Proof.Machine.execPwrdn s
  | .chcnt => Sys2Proof.Machine.execChcnt s

end Sys2Proof.Machine
end

