-- ==== Sys2Proof/Machine/Reset.lean ====
section
/-! DEFINITION. Reset, the document's construction (70_reset_and_hazards.md R132, R133): its first micro-step. The rest
of the sequence is the sequencer's, "from `PD0` with `OPL` = SETGAIN" (R72). -/

namespace Sys2Proof.Machine

/-- The N lanes of a new instance: `OFFSET[i] = 0` (R133), the other registers unspecified (R28). -/
def freshLanes (n : Nat) (junk : List Lane) : List Lane :=
  (List.range n).map fun i => { junk[i]?.getD Lane.zero with offset := 0 }

/-- The state in which the reset sequence has bound the pins, driven the clock LOW (event `CK(0)`), zeroed the offsets
and `DEBUG`, and begun SETGAIN `INIT_GAIN` (R133). `GAIN` has no earlier value to keep, so `INIT_GAIN` is valid
wherever this is used (R7, R28). -/
def State.constructed (s : State) (r : ResetRequest) : State :=
  ({ s with
      cfg   := r.cfg
      lanes := freshLanes r.cfg.n r.junk.lanes
      debug := false
      busy  := true
      rsp   := r.junk.rsp
      seq   :=
        { r.junk.seq with
          opl := (Instr.setgain r.cfg.initGain).opcode
          al  := (Instr.setgain r.cfg.initGain).operandA
          bl  := (Instr.setgain r.cfg.initGain).operandB } }.writeClock false).startGain r.cfg.initGain

/-- Reset asserted: no meaning during a command (R132) or with a configuration that breaks R5, R6 or R7 (R133). -/
def beginReset (r : ResetRequest) (s : State) : Host.Outcome State Fault Refusal :=
  if s.busy then .refused .resetWhileBusy
  else if r.cfg.wellFormed then .next (s.constructed r)
  else .refused .badConfiguration

end Sys2Proof.Machine
end

