-- ==== Sys2Proof/Machine/Sequencer.lean ====
section
/-! DEFINITION. The sequencer: one definition per row of the micro-step table of 40_acquisition.md R72, each one atomic
micro-step with at most one pin event. -/

namespace Sys2Proof.Machine

/-- `POLL`: one sample; leave the wait only if all N lines are LOW in it (R61). There is no bound on the wait (R62). -/
def microPoll (s : State) : Host.Outcome State Fault Refusal :=
  if ready s.din then .next { s.sampled with seq := { s.seq with k := 0, phase := .dhi } }
  else .next s.sampled

/-- `DHI`: the rising edge of a data pulse; a flush frame takes no sample (R63). -/
def microDhi (s : State) : Host.Outcome State Fault Refusal :=
  .next ((s.writeClock true).goto (if s.seq.smpl then .dsmp else .dlo))

/-- `DSMP`: one sample while the clock is HIGH; bit `23 - K` of every `ACC[i]` (R63, R64). -/
def microDsmp (s : State) : Host.Outcome State Fault Refusal :=
  if 23 < s.seq.k.toNat then .fault .pulseIndexOutOfRange
  else .next ((s.sampled.writeLaneBits (23 - s.seq.k.toNat) s.din).goto .dlo)

/-- `DLO`: the falling edge; the next of the 24 data pulses, or the gain pulses (R63, R65). -/
def microDlo (s : State) : Host.Outcome State Fault Refusal :=
  if s.seq.k.toNat < 23 then
    .next { s.writeClock false with seq := { s.seq with k := s.seq.k + 1, phase := .dhi } }
  else
    .next { s.writeClock false with seq := { s.seq with g := 0, phase := .ghi } }

/-- `GHI`: the rising edge of a gain pulse, with no data sampling (R65). -/
def microGhi (s : State) : Host.Outcome State Fault Refusal :=
  if s.gain = 0 then .fault .gainNotDefined
  else .next ((s.writeClock true).goto .glo)

/-- The phase after the last gain pulse: the sign extension in a sampling frame only (R67, R70). -/
def Seq.afterGain (q : Seq) : Phase := if q.smpl then .ext else .fin

/-- `GLO`: the falling edge of a gain pulse; exactly `GAIN` of them (R65, R66). -/
def microGlo (s : State) : Host.Outcome State Fault Refusal :=
  .next { s.writeClock false with
    seq := { s.seq with g := s.seq.g + 1, phase := if s.seq.g + 1 < s.gain then .ghi else s.seq.afterGain } }

/-- The phase after the sign extension, by the latched opcode (R72). -/
def Seq.afterExt (q : Seq) : Phase :=
  if q.opl = Instr.read.opcode then .sub
  else if q.opl = (Instr.tare 0 0).opcode then .stat
  else .fin

/-- `EXT`: `SIGNEXT()` on all N lanes (R67). -/
def microExt (s : State) : Host.Outcome State Fault Refusal :=
  .next ((s.mapLanes Lane.extend).goto s.seq.afterExt)

/-- `SUB`: the offset subtraction of READ on all N lanes (R97). -/
def microSub (s : State) : Host.Outcome State Fault Refusal :=
  .next ((s.mapLanes Lane.correct).goto .fin)

/-- `STAT`: the running statistics; the next of the `T` frames, or the verdict (R101). -/
def microStat (s : State) : Host.Outcome State Fault Refusal :=
  .next { s.mapLanes (fun l => l.accumulate (s.seq.tc == 0)) with
    seq := { s.seq with
      tc := s.seq.tc + 1
      phase := if s.seq.tc + 1 < s.tareCount then .poll else .judge } }

/-- `JUDGE`: the stability check and, if it passes, the commit of all N offsets in this one micro-step (R102 to R104). -/
def microJudge (s : State) : Host.Outcome State Fault Refusal :=
  if s.tareCount = 0 then .fault .meanOfNoSamples
  else if tareRejects s.tareCount s.tareTolerance s.lanes then
    .next ({ s with rsp := verdictWord true }.goto .fin)
  else
    .next ({ s.mapLanes (fun l => l.commit s.tareCount) with rsp := verdictWord false }.goto .fin)

/-- `PD0`: the LOW write of PWRDN, PWRUP and SETGAIN (R81, R89, R90). -/
def microPd0 (s : State) : Host.Outcome State Fault Refusal :=
  if s.seq.opl = Instr.pwrdn.opcode then .next ((s.writeClock false).goto .pd1)
  else if s.seq.opl = Instr.pwrup.opcode then .next ((s.writeClock false).goto .fin)
  else if s.seq.opl = (Instr.setgain 0).opcode then .next ((s.writeClock false).goto .poll)
  else .fault .noSuchMicroStep

/-- `PD1`: the HIGH write of PWRDN (R89). -/
def microPd1 (s : State) : Host.Outcome State Fault Refusal :=
  .next ((s.writeClock true).goto .fin)

/-- `FIN`: `BUSY <- 0` (R72). -/
def microFin (s : State) : Host.Outcome State Fault Refusal :=
  .next ({ s with busy := false }.goto .idle)

/-- One micro-step of SEQ (R72). In `IDLE` there is none "until the host presents a frame": nothing changes. -/
def micro (s : State) : Host.Outcome State Fault Refusal :=
  match s.seq.phase with
  | .idle  => .next s
  | .poll  => microPoll s
  | .dhi   => microDhi s
  | .dsmp  => microDsmp s
  | .dlo   => microDlo s
  | .ghi   => microGhi s
  | .glo   => microGlo s
  | .ext   => microExt s
  | .sub   => microSub s
  | .stat  => microStat s
  | .judge => microJudge s
  | .pd0   => microPd0 s
  | .pd1   => microPd1 s
  | .fin   => microFin s

end Sys2Proof.Machine
end

