-- ==== Sys2Proof/Machine/HostPort.lean ====
section
/-! DEFINITION. The host port (30_encoding.md R48, R54 to R56; 70_reset_and_hazards.md R140): presenting a frame,
asserting reset, reading the response, and the assembler's lines. -/

namespace Sys2Proof.Machine

/-- A frame presented to the block: `CommandWhileBusy` is checked before decoding, `IllegalCommand` before anything of
the command itself (R121). -/
def present (f : Frame) (s : State) : Host.Outcome State Fault Refusal :=
  if s.busy then .refused .commandWhileBusy
  else
    match decode f with
    | .error why => .refused (.illegalCommand why)
    | .ok i      => exec i s

/-- One turn of the machine: what the host does now, or else the sequencer's next micro-step. A host that waits for
`BUSY = 0` does nothing while a command runs (R48, R73). -/
def turn (s : State) : Host.Outcome State Fault Refusal :=
  match s.host with
  | []                         => micro s
  | .frameWhenIdle f :: later  => if s.busy then micro s else present f { s with host := later }
  | .frameNow f :: later       => present f { s with host := later }
  | .resetWhenIdle r :: later  => if s.busy then micro s else beginReset r { s with host := later }
  | .resetNow r :: later       => beginReset r { s with host := later }

/-- `ACC[0..N-1]` as the host reads them, in channel order: only when `BUSY = 0` (R48, R54, R140). -/
def State.hostAcc (s : State) : Option (List Word) :=
  if s.busy then none else some (s.lanes.map Lane.acc)

/-- `RSP` as the host reads it: only when `BUSY = 0` (R48, R54, R140). -/
def State.hostRsp (s : State) : Option Word :=
  if s.busy then none else some s.rsp

/-- A line of the assembler: a command, or one of the two pseudo-instructions (R55, R56). -/
inductive AsmLine where
  | command (i : Instr)
  /-- `FLUSH` is `READRAW.F`. -/
  | flush
  /-- `RESET N, [d0, ..], c, g`; `none` takes the default `g = 128`. -/
  | reset (n : Nat) (dpin : List Nat) (cpin : Nat) (g : Option Word) (junk : Unspecified)
  deriving DecidableEq, Repr

/-- What the host does for one line: "issued in order, each when the previous one has completed" (R55). -/
def AsmLine.input : AsmLine → HostInput
  | .command i => .frameWhenIdle (encode i)
  | .flush     => .frameWhenIdle (encode .readrawF)
  | .reset n dpin cpin g junk =>
    .resetWhenIdle { cfg := { n := n, dpin := dpin, cpin := cpin, initGain := g.getD 128 }, junk := junk }

end Sys2Proof.Machine
end

