-- ==== Sys2Proof/Machine/Step.lean ====
section
/-! DEFINITION. One step of the machine, the host's way to place a frame, and a run of several steps. -/

namespace Sys2Proof.Machine

/-- One step: one turn of the host port and the sequencer. -/
def step (s : State) : Host.Outcome State Fault Refusal := turn s

/-- `s` with the frame of table word `w` first at the host port and the sequencer at rest, so that the very next step
accepts exactly it (notes/assumptions/8.md). The block fetches nothing (20_memory.md R46): this stands for the host
presenting the frame. -/
def State.withFetchWord (s : State) (nbits w : Nat) : State :=
  { s with
    busy := false
    seq  := { s.seq with phase := .idle }
    host := .frameWhenIdle (frameOfTableWord nbits w) :: s.host }

/-- `k` steps, stopping at the first stop. -/
def run : Nat → State → Host.Outcome State Fault Refusal
  | 0, s => .next s
  | k + 1, s =>
    match step s with
    | .next s'   => run k s'
    | .fault r   => .fault r
    | .refused r => .refused r

end Sys2Proof.Machine
end

