-- ==== Sys2Proof/Machine/Trace.lean ====
section
/-! DEFINITION. What the event trace shows (00_scope.md R12): edges, pulses and samples. `level` is the level of the
clock output before the first event of the list. -/

namespace Sys2Proof.Machine

/-- The level of the clock output after the events (R35). -/
def clockLevel (level : Bool) : List Event → Bool
  | []              => level
  | .ck b :: rest   => clockLevel b rest
  | .smp _ :: rest  => clockLevel level rest

/-- Rising edges: a `CK(1)` performed when `SCK = 0` (R12). -/
def risingEdges (level : Bool) : List Event → Nat
  | []              => 0
  | .ck b :: rest   => (if b && !level then 1 else 0) + risingEdges b rest
  | .smp _ :: rest  => risingEdges level rest

/-- Falling edges: a `CK(0)` performed when `SCK = 1` (R12). -/
def fallingEdges (level : Bool) : List Event → Nat
  | []              => 0
  | .ck b :: rest   => (if !b && level then 1 else 0) + fallingEdges b rest
  | .smp _ :: rest  => fallingEdges level rest

/-- Clock pulses: "a rising edge followed, with no other `CK` event between, by a falling edge" (R12). `rose` says that
the last `CK` event was a rising edge. -/
def clockPulses (level rose : Bool) : List Event → Nat
  | []              => 0
  | .ck b :: rest   => (if rose && !b then 1 else 0) + clockPulses b (b && !level) rest
  | .smp _ :: rest  => clockPulses level rose rest

/-- Sample events. -/
def sampleCount : List Event → Nat
  | []              => 0
  | .ck _ :: rest   => sampleCount rest
  | .smp _ :: rest  => 1 + sampleCount rest

end Sys2Proof.Machine
end

