-- ==== Sys2Proof/Machine/Summary.lean ====
section
/-! DEFINITION. The command-level summary of the block (40_acquisition.md R74): what a whole frame does to the files
and to the trace, written from the procedures of R61 to R70 and from TARE's pseudocode (43_calibration.md R100), not
from the micro-steps. The statements say that the micro-steps arrive at it. -/

namespace Sys2Proof.Machine

/-- A frame input (R74): the poll answers before the ready one, and the 24 data answers of a sampling frame. -/
structure FrameInput where
  polls : List Sample
  data  : List Sample
  deriving DecidableEq, Repr

/-- What makes a frame input one for N channels (R61, R63, R74): no poll answer before the last is `0^N`, and a
sampling frame has 24 data answers. -/
def FrameInput.wellFormed (inp : FrameInput) (n : Nat) (smpl : Bool) : Bool :=
  (inp.polls.all fun v => v.length == n && !ready v) &&
  (inp.data.all fun v => v.length == n) &&
  inp.data.length == (if smpl then 24 else 0)

/-- `0^N`. -/
def allLow (n : Nat) : Sample := List.replicate n false

/-- ENV's answers in a frame, in the order they are asked for (R61, R63). -/
def FrameInput.answers (inp : FrameInput) (n : Nat) : List Sample :=
  inp.polls ++ allLow n :: inp.data

/-- A clock pulse with no sample in it. -/
def plainPulse : List Event := [.ck true, .ck false]

/-- A data pulse of a sampling frame: rising edge, sample, falling edge (R43, R63). -/
def dataPulse (v : Sample) : List Event := [.ck true, .smp v, .ck false]

/-- The trace of a sampling frame (R69). -/
def FrameInput.samplingTrace (inp : FrameInput) (n : Nat) (gain : BitVec 2) : List Event :=
  (inp.polls ++ [allLow n]).map .smp ++ inp.data.flatMap dataPulse
    ++ (List.replicate gain.toNat plainPulse).flatten

/-- The trace of a flush frame (R70): `24 + GAIN` plain pulses after the polls. -/
def FrameInput.flushTrace (inp : FrameInput) (n : Nat) (gain : BitVec 2) : List Event :=
  (inp.polls ++ [allLow n]).map .smp ++ (List.replicate (24 + gain.toNat) plainPulse).flatten

/-- Micro-steps of a sampling frame up to and with `EXT` (R72): polls, 24 times three, `GAIN` times two, one. -/
def FrameInput.samplingSteps (inp : FrameInput) (gain : BitVec 2) : Nat :=
  (inp.polls.length + 1) + 72 + 2 * gain.toNat + 1

/-- Micro-steps of a flush frame (R72): polls, 24 times two, `GAIN` times two. -/
def FrameInput.flushSteps (inp : FrameInput) (gain : BitVec 2) : Nat :=
  (inp.polls.length + 1) + 48 + 2 * gain.toNat

/-- `f_i`, the field channel `i` sent, most significant bit first: `d_0[i] ++ d_1[i] ++ ... ++ d_23[i]` (R38, R74). -/
def fieldValue (data : List Sample) (i : Nat) : Nat :=
  data.foldl (fun f v => 2 * f + (Sample.lane v i).toNat) 0

/-- `f_i = sum over k of b_k[i] * 2^(23-k)`, as R68 writes it. -/
def fieldSum (data : List Sample) (i : Nat) : Nat :=
  ((List.range 24).map fun k => (Sample.lane (data[k]?.getD []) i).toNat * 2 ^ (23 - k)).sum

/-- `sext_24` of a field (00_scope.md R10): the raw sample. -/
def rawSample (data : List Sample) (i : Nat) : Word :=
  (BitVec.ofNat 24 (fieldValue data i)).signExtend 32

/-- The lanes after a sampling frame: every `ACC[i]` is its raw sample, whatever it held (R68, R69, R74). -/
def sampledLanes (data : List Sample) (lanes : List Lane) : List Lane :=
  lanes.mapIdx fun i l => { l with acc := rawSample data i }

/-! ### TARE (R100, R101) -/

/-- `x[0][i] .. x[T-1][i]`: the signed samples of channel `i`. -/
def tareSamples (frames : List FrameInput) (i : Nat) : List Int :=
  frames.map fun inp => (rawSample inp.data i).toInt

/-- `mn[i]`. -/
def leastSample (xs : List Int) : Int := xs.min?.getD 0

/-- `mx[i]`. -/
def greatestSample (xs : List Int) : Int := xs.max?.getD 0

/-- `mean[i] = tdiv(sum, T)`. -/
def meanSample (xs : List Int) : Int := Int.tdiv xs.sum xs.length

/-- R102 on the recorded samples of the N channels. -/
def attemptRejected (t k : Word) (n : Nat) (frames : List FrameInput) : Bool :=
  k ≠ 0 && 1 < t.toNat &&
    (List.range n).any fun i =>
      (k.toNat : Int) < greatestSample (tareSamples frames i) - leastSample (tareSamples frames i)

/-- The lanes after a TARE over `frames`: the last raw sample, the statistics, and the mean as the new offset unless the
attempt was rejected (R100, R103, R104). -/
def taredLanes (rejected : Bool) (frames : List FrameInput) (lanes : List Lane) : List Lane :=
  lanes.mapIdx fun i l =>
    let xs := tareSamples frames i
    { acc    := BitVec.ofInt 32 (xs.getLast?.getD 0)
      offset := if rejected then l.offset else BitVec.ofInt 32 (meanSample xs)
      min    := BitVec.ofInt 32 (leastSample xs)
      max    := BitVec.ofInt 32 (greatestSample xs)
      sum    := BitVec.ofInt 56 xs.sum }

/-- The trace of a TARE: "the concatenation of `T` READRAW traces, each with its own readiness wait" (R100). -/
def tareTrace (n : Nat) (gain : BitVec 2) (frames : List FrameInput) : List Event :=
  frames.flatMap fun inp => inp.samplingTrace n gain

/-- ENV's answers in a TARE, in order. -/
def tareAnswers (n : Nat) (frames : List FrameInput) : List Sample :=
  frames.flatMap fun inp => inp.answers n

/-- Micro-steps of a TARE after its acceptance (R72): each frame and its `STAT`, then `JUDGE` and `FIN`. -/
def tareSteps (gain : BitVec 2) (frames : List FrameInput) : Nat :=
  (frames.map fun inp => inp.samplingSteps gain + 1).sum + 2

end Sys2Proof.Machine
end

