-- ==== Sys2Proof/Safety.lean ====
section
/-! DEFINITION. What counts as a safe run, in the terms the statements use: the invariant of the block, a host that
keeps to its duties, and what ENV answers. -/

namespace Sys2Proof.Machine

/-- The range of a raw sample: `-2^23 <= s(w) <= 2^23 - 1` (10_state.md R15). -/
abbrev RawRange (w : Word) : Prop := -2 ^ 23 ≤ w.toInt ∧ w.toInt ≤ 2 ^ 23 - 1

/-- The phases in which a frame is being waited for or clocked (R72). -/
def Phase.inFrame : Phase → Bool
  | .poll | .dhi | .dsmp | .dlo | .ghi | .glo => true
  | .idle | .ext | .sub | .stat | .judge | .pd0 | .pd1 | .fin => false

/-- The phases of a data pulse (R72). -/
def Phase.inDataPulse : Phase → Bool
  | .dhi | .dsmp | .dlo => true
  | .idle | .poll | .ghi | .glo | .ext | .sub | .stat | .judge | .pd0 | .pd1 | .fin => false

/-- The phases of a gain pulse (R72). -/
def Phase.inGainPulse : Phase → Bool
  | .ghi | .glo => true
  | .idle | .poll | .dhi | .dsmp | .dlo | .ext | .sub | .stat | .judge | .pd0 | .pd1 | .fin => false

/-- The phases between two verdicts of a TARE: its frames, `EXT` and `STAT` (R72). -/
def Phase.inTare : Phase → Bool
  | .poll | .dhi | .dsmp | .dlo | .ghi | .glo | .ext | .stat => true
  | .idle | .sub | .judge | .pd0 | .pd1 | .fin => false

/-- The configuration is one the spec gives a meaning, and there is one lane per channel (R5 to R7, R39). -/
abbrev State.ShapeOk (s : State) : Prop :=
  s.cfg.wellFormed = true ∧ s.lanes.length = s.cfg.n

/-- `GAIN` is in 1, 2, 3 (R16) and `DEBUG` stays 0 (R19). -/
abbrev State.ModeOk (s : State) : Prop :=
  s.gain ≠ 0 ∧ s.debug = false

/-- `BUSY = 1` exactly outside `IDLE` (R20, R72). -/
abbrev State.BusyOk (s : State) : Prop :=
  s.busy = true ↔ s.seq.phase ≠ .idle

/-- Every offset is in the range of a raw sample (R15). -/
abbrev State.OffsetsOk (s : State) : Prop :=
  ∀ l ∈ s.lanes, RawRange l.offset

/-- The latched opcode, `SMPL` and the phase belong to one command of R72. -/
abbrev State.CommandOk (s : State) : Prop :=
  (s.seq.phase.inFrame = true → s.seq.smpl = true →
    s.seq.opl = 1 ∨ s.seq.opl = 2 ∨ s.seq.opl = 3) ∧
  (s.seq.phase.inFrame = true → s.seq.smpl = false →
    s.seq.opl = 1 ∨ s.seq.opl = 2 ∨ s.seq.opl = 4) ∧
  (s.seq.phase = .dsmp ∨ s.seq.phase = .ext ∨ s.seq.phase = .stat → s.seq.smpl = true) ∧
  (s.seq.phase = .ext → s.seq.opl = 1 ∨ s.seq.opl = 2 ∨ s.seq.opl = 3) ∧
  (s.seq.phase = .sub → s.seq.opl = 2) ∧
  (s.seq.phase = .stat → s.seq.opl = 3) ∧
  (s.seq.phase = .judge → s.seq.opl = 3) ∧
  (s.seq.phase = .pd0 → s.seq.opl = 5 ∨ s.seq.opl = 6 ∨ (s.seq.opl = 4 ∧ s.seq.smpl = false)) ∧
  (s.seq.phase = .pd1 → s.seq.opl = 6)

/-- The pulse counters are in their ranges (R22). -/
abbrev State.CountersOk (s : State) : Prop :=
  (s.seq.phase.inDataPulse = true → s.seq.k.toNat ≤ 23) ∧
  (s.seq.phase.inGainPulse = true → s.seq.g < s.gain) ∧
  (s.seq.phase.inTare = true → s.seq.opl = 3 → s.seq.tc < s.seq.al) ∧
  (s.seq.phase = .judge → s.seq.tc = s.seq.al ∧ s.seq.al ≠ 0)

/-- The clock output has the level its phase requires (R63, R65, R89). -/
abbrev State.ClockOk (s : State) : Prop :=
  (s.seq.phase = .dsmp ∨ s.seq.phase = .dlo ∨ s.seq.phase = .glo → s.sck = true) ∧
  (s.seq.phase = .ghi ∨ s.seq.phase = .ext ∨ s.seq.phase = .sub ∨ s.seq.phase = .stat ∨
    s.seq.phase = .judge ∨ s.seq.phase = .pd1 → s.sck = false) ∧
  (s.seq.phase = .dhi → s.seq.k ≠ 0 → s.sck = false)

/-- After the sign extension every `ACC[i]` is a raw sample (R15, R67). -/
abbrev State.SamplesOk (s : State) : Prop :=
  s.seq.phase = .sub ∨ s.seq.phase = .stat ∨ s.seq.phase = .judge → ∀ l ∈ s.lanes, RawRange l.acc

/-- One lane's statistics after `tc` samples (R23, R101): least and greatest are raw samples in order, and the exact sum
lies between `tc` times the one and `tc` times the other, so it never overflows. -/
abbrev Lane.StatsOk (l : Lane) (tc : Nat) : Prop :=
  RawRange l.min ∧ RawRange l.max ∧ l.min.toInt ≤ l.max.toInt ∧
    tc * l.min.toInt ≤ l.sum.toInt ∧ l.sum.toInt ≤ tc * l.max.toInt

/-- The running statistics of a TARE that has taken a sample (R23, R101). -/
abbrev State.StatsOk (s : State) : Prop :=
  (s.seq.phase.inTare = true ∧ s.seq.opl = 3 ∧ s.seq.tc ≠ 0) ∨ s.seq.phase = .judge →
    ∀ l ∈ s.lanes, l.StatsOk s.seq.tc.toNat

/-- The invariant of the block. -/
abbrev State.Inv (s : State) : Prop :=
  s.ShapeOk ∧ s.ModeOk ∧ s.BusyOk ∧ s.OffsetsOk ∧ s.CommandOk ∧ s.CountersOk ∧ s.ClockOk ∧ s.SamplesOk ∧ s.StatsOk

/-- The block is idle: it accepts a command (R20). -/
abbrev State.Idle (s : State) : Prop := s.busy = false ∧ s.seq.phase = .idle

/-- The host does nothing while a command runs: it has nothing to present, or it waits for `BUSY = 0` (R48, R140). -/
def State.hostWaits (s : State) : Bool :=
  match s.host with
  | [] | .frameWhenIdle _ :: _ | .resetWhenIdle _ :: _ => true
  | .frameNow _ :: _ | .resetNow _ :: _ => false

/-- The same, as a proposition. -/
abbrev State.HostWaits (s : State) : Prop := s.hostWaits = true

/-- The host presents frame `f` and will then do `later` (R48). -/
abbrev State.Presents (s : State) (f : Frame) (later : List HostInput) : Prop :=
  s.host = .frameWhenIdle f :: later ∨ s.host = .frameNow f :: later

/-- The host asserts reset with request `r` and will then do `later` (R132). -/
abbrev State.Resets (s : State) (r : ResetRequest) (later : List HostInput) : Prop :=
  s.host = .resetWhenIdle r :: later ∨ s.host = .resetNow r :: later

/-- The command `i` is accepted in the step from `s`: it is presented and `BUSY = 0` (R72). -/
abbrev State.Accepts (s : State) (i : Instr) : Prop :=
  s.busy = false ∧ ∃ f later, s.Presents f later ∧ decode f = .ok i

/-- A reset with request `r` begins in the step from `s` (R133). -/
abbrev State.BeginsReset (s : State) (r : ResetRequest) : Prop :=
  s.busy = false ∧ r.cfg.wellFormed = true ∧ ∃ later, s.Resets r later

/-- A change carried out on the next state of an outcome; a stop stays that stop. -/
def mapNext (f : State → State) : Host.Outcome State Fault Refusal → Host.Outcome State Fault Refusal
  | .next t    => .next (f t)
  | .fault r   => .fault r
  | .refused r => .refused r

/-- ENV's next answers are `answers`, in order (R36: a claim about particular readings states its assumption on them as
a premise). -/
abbrev State.Hears (s : State) (answers : List Sample) : Prop :=
  ∀ j, j < answers.length → s.answer j = answers[j]?.getD []

end Sys2Proof.Machine
end

