-- ==== Sys2Proof/Certificates/Slice0/Obligations.lean ====
section
/-! DEFINITION. The statements about the model, for the provers. Each docstring names the rule of the spec it
formalises. `∃ q, … seq := q … ∧ q.phase = .idle` leaves open the sequencer fields that R28 leaves unspecified in
`IDLE`; every other field of the final state is given, so each such statement is also the frame of its command. -/

open Sys2Proof Sys2Proof.Machine

/-! ### Encoding -/

/-- Frames written out from the opcode map and from the decoder table of 95_test_vectors.md 2.5 (R50, R51). -/
def Obligations.DecodesFramesWrittenOut : Prop :=
  decode 0x10000000000000000 = .ok .readraw ∧
  decode 0x10000000100000000 = .ok .readrawF ∧
  decode 0x20000000000000000 = .ok .read ∧
  decode 0x20000000100000000 = .ok .readF ∧
  decode 0x3000000020000000A = .ok (.tare 2 10) ∧
  decode 0x40000004000000000 = .ok (.setgain 64) ∧
  decode 0x50000000000000000 = .ok .pwrup ∧
  decode 0x60000000000000000 = .ok .pwrdn ∧
  decode 0x70000000000000000 = .ok .chcnt ∧
  decode 0x10000000200000000 = .error .operandA ∧
  decode 0x40000008000000001 = .error .operandB ∧
  decode 0xF0000000000000000 = .error .reservedOpcode

/-- No bit of a command is lost in its frame (R48 to R50). -/
def Obligations.DecodeInvertsEncode : Prop :=
  ∀ i : Instr, decode (encode i) = .ok i

/-- A command has one frame only (R50, R52). -/
def Obligations.EncodeInvertsDecode : Prop :=
  ∀ (f : Frame) (i : Instr), decode f = .ok i → encode i = f

/-- R50: a frame is the command of a row exactly when `f & mask = match`, and the nine rows are pairwise disjoint. -/
def Obligations.FrameIsOfARowExactlyWhenItMatches : Prop :=
  (∀ (i : Instr) (f : Frame),
    i.rowMatches f = true ↔ ∃ j, decode f = .ok j ∧ j.mnemonic = i.mnemonic) ∧
  (∀ (i j : Instr) (f : Frame), i.rowMatches f = true → j.rowMatches f = true → i.mnemonic = j.mnemonic)

/-- R51: the reserved frames are exactly the ones listed, an idle block presented with one refuses it, and a SETGAIN
with any selector is not reserved. -/
def Obligations.ReservedFramesAreTheseAndAreRefused : Prop :=
  (∀ f : Frame,
    (∃ why, decode f = .error why) ↔
      (f.op = 0 ∨ 8 ≤ f.op.toNat) ∨
      ((f.op = 1 ∨ f.op = 2) ∧ (f.a.extractLsb' 1 31 ≠ 0 ∨ f.b ≠ 0)) ∨
      (f.op = 4 ∧ f.b ≠ 0) ∨
      ((f.op = 5 ∨ f.op = 6 ∨ f.op = 7) ∧ (f.a ≠ 0 ∨ f.b ≠ 0))) ∧
  (∀ (s : State) (f : Frame) (later : List HostInput) (why : DecodeError),
    s.busy = false → s.Presents f later → decode f = .error why →
      step s = .refused (.illegalCommand why)) ∧
  (∀ g : Word, decode (Frame.mk 4 g 0) = .ok (.setgain g))

/-! ### The step -/

/-- A step of an idle block presented with a frame is the meaning of the command the frame decodes to, at the state with
that frame taken from the port (R48, R72). -/
def Obligations.StepAcceptsTheDecodedCommand : Prop :=
  ∀ (s : State) (f : Frame) (later : List HostInput) (i : Instr),
    s.busy = false → s.Presents f later → decode f = .ok i →
      step s = exec i { s with host := later }

/-- R72, row `IDLE`: an idle block accepts every command but a TARE of no samples, whatever the rest of the state; the
next state is the latched command with `BUSY` set, the row's first register writes, and its first phase. No pin event. -/
def Obligations.IdleBlockAcceptsEveryCommand : Prop :=
  ∀ (s : State) (i : Instr), s.busy = false → (∀ k, i ≠ .tare 0 k) →
    exec i s = .next
      { s with
        gain :=
          match i with
          | .setgain g => if g = 128 then 1 else if g = 64 then 3 else if g = 32 then 2 else s.gain
          | .readraw | .readrawF | .read | .readF | .tare _ _ | .pwrup | .pwrdn | .chcnt => s.gain
        busy := true
        rsp  :=
          match i with
          | .chcnt => BitVec.ofNat 32 s.cfg.n
          | .readraw | .readrawF | .read | .readF | .tare _ _ | .setgain _ | .pwrup | .pwrdn => s.rsp
        seq  :=
          { s.seq with
            opl   := i.opcode
            al    := i.operandA
            bl    := i.operandB
            tc    :=
              match i with
              | .tare _ _ => 0
              | .readraw | .readrawF | .read | .readF | .setgain _ | .pwrup | .pwrdn | .chcnt => s.seq.tc
            smpl  :=
              match i with
              | .readraw | .read | .tare _ _ => true
              | .readrawF | .readF | .setgain _ => false
              | .pwrup | .pwrdn | .chcnt => s.seq.smpl
            phase :=
              match i with
              | .readraw | .readrawF | .read | .readF | .tare _ _ => .poll
              | .setgain _ | .pwrup | .pwrdn => .pd0
              | .chcnt => .fin } }

/-- While a command runs and the host waits, a step is the sequencer's next micro-step; an idle block with nothing
presented stays as it is (R72; notes/assumptions/12.md). -/
def Obligations.StepRunsTheSequencerWhileBusy : Prop :=
  (∀ s : State, s.busy = true → s.HostWaits → step s = micro s) ∧
  (∀ s : State, s.Idle → s.host = [] → step s = .next s)

/-- R73: "No input of the block other than the data lines influences a command once accepted": what the waiting host
has in store makes no difference to a step of a running command. -/
def Obligations.RunningCommandIgnoresTheWaitingHost : Prop :=
  ∀ (s : State) (h : List HostInput),
    s.busy = true → s.HostWaits → ({ s with host := h } : State).HostWaits →
      step { s with host := h } = mapNext (fun t => { t with host := h }) (step s)

/-- R119: a step is refused for these reasons and no others, and a refusal is never cleared. Busy is looked at before the
frame is decoded, and the frame is decoded before TARE's operand is looked at (R121). The name `resetWhileBusy`, and that a
busy block looks at `BUSY` before the configuration of a reset, are the model's choice (notes/assumptions/10.md): R119 and
R132 say only that a reset during a command has no meaning. -/
def Obligations.RefusalsAreExactlyThese : Prop :=
  ∀ (s : State) (r : Refusal),
    (step s = .refused r ↔
      (r = .commandWhileBusy ∧ s.busy = true ∧ ∃ f later, s.host = .frameNow f :: later) ∨
      (∃ why f later, r = .illegalCommand why ∧ s.busy = false ∧ s.Presents f later ∧ decode f = .error why) ∨
      (r = .tareZeroSamples ∧ ∃ k, s.Accepts (.tare 0 k)) ∨
      (r = .resetWhileBusy ∧ s.busy = true ∧ ∃ q later, s.host = .resetNow q :: later) ∨
      (r = .badConfiguration ∧ s.busy = false ∧ ∃ q later, s.Resets q later ∧
        ¬ (1 ≤ q.cfg.n ∧ q.cfg.n < 2 ^ 32 ∧ q.cfg.dpin.length = q.cfg.n ∧ (q.cfg.cpin :: q.cfg.dpin).Nodup ∧
          (q.cfg.initGain = 128 ∨ q.cfg.initGain = 64 ∨ q.cfg.initGain = 32)))) ∧
    (step s = .refused r → ∀ k, run (k + 1) s = .refused r)

/-- R106: a TARE of zero samples is refused, from the meaning and through its frame. -/
def Obligations.TareOfZeroSamplesIsRefused : Prop :=
  ∀ (s : State) (k : Word), s.busy = false →
    exec (.tare 0 k) s = .refused .tareZeroSamples ∧
    ∀ later, s.Presents (encode (.tare 0 k)) later → step s = .refused .tareZeroSamples

/-! ### The procedures of a frame -/

/-- R61: the wait samples at least once and ends after the first sample in which all N lines are LOW together; it writes
nothing but the sequencer's own fields, whatever the level of `SCK`. -/
def Obligations.ReadinessWaitEndsAtFirstAllLowSample : Prop :=
  ∀ (s : State) (m : Nat), s.busy = true → s.HostWaits → s.seq.phase = .poll →
    (∀ j, j < m → ready (s.answer j) = false) → ready (s.answer m) = true →
      run (m + 1) s = .next
        { s with
          env   := s.env.advance (m + 1)
          trace := s.trace ++ (List.range (m + 1)).map fun j => .smp (s.answer j)
          seq   := { s.seq with k := 0, phase := .dhi } }

/-- R62: the wait has no bound. However many samples ENV answers without `0^N`, the block has taken exactly those samples,
is still in `POLL` with `BUSY = 1`, has performed no clock event and written no register; so if ENV never answers `0^N` it
stays there for ever. -/
def Obligations.ReadinessWaitHasNoBound : Prop :=
  ∀ (s : State) (m : Nat), s.busy = true → s.HostWaits → s.seq.phase = .poll →
    (∀ j, j < m → ready (s.answer j) = false) →
      run m s = .next
        { s with
          env   := s.env.advance m
          trace := s.trace ++ (List.range m).map fun j => .smp (s.answer j) }

/-- R117: while ENV does not answer `0^N`, a command that has a frame, and reset, neither completes nor stops: after every
number of steps up to the number of such answers the block is still busy. -/
def Obligations.NeverReadyNeverCompletes : Prop :=
  (∀ (s t : State) (i : Instr) (m : Nat), s.Idle → s.HostWaits → (∀ j, j < m → ready (s.answer j) = false) →
    (i ≠ .pwrup ∧ i ≠ .pwrdn ∧ i ≠ .chcnt) → exec i s = .next t →
      ∃ u, run m t = .next u ∧ u.busy = true) ∧
  (∀ (s t : State) (r : ResetRequest) (later : List HostInput) (m : Nat), s.BeginsReset r → s.Resets r later →
    ({ s with host := later } : State).HostWaits →
    (∀ j, j < m → ready (({ s with cfg := r.cfg } : State).answer j) = false) → step s = .next t →
      ∃ u, run m t = .next u ∧ u.busy = true)

/-- R63: from the first `DHI` the block performs exactly 24 data pulses. In a sampling frame bits 23:0 of every `ACC[i]`
become the sampled field, most significant bit first, bits 31:24 keep their value, and pulse `k` is
`CK(1), SMP, CK(0)`; in a flush frame no sample is taken and no `ACC` is written. `SCK` ends LOW. -/
def Obligations.ShiftInWritesTheFieldAndNothingElse : Prop :=
  (∀ s : State, s.busy = true → s.HostWaits → s.seq.phase = .dhi → s.seq.k = 0 → s.seq.smpl = true →
    ∃ q : Seq,
      run 72 s = .next
        { s with
          lanes := s.lanes.mapIdx fun i l =>
            { l with
              acc := (l.acc &&& 0xFF000000) |||
                (BitVec.ofNat 24 (fieldValue ((List.range 24).map s.answer) i)).setWidth 32 }
          sck   := false
          env   := s.env.advance 24
          trace := s.trace ++ ((List.range 24).map s.answer).flatMap dataPulse
          seq   := q } ∧
      q = { s.seq with k := 23, g := 0, phase := .ghi }) ∧
  (∀ s : State, s.busy = true → s.HostWaits → s.seq.phase = .dhi → s.seq.k = 0 → s.seq.smpl = false →
    run 48 s = .next
      { s with
        sck   := false
        trace := s.trace ++ (List.replicate 24 plainPulse).flatten
        seq   := { s.seq with k := 23, g := 0, phase := .ghi } })

/-- R65: directly after the falling edge of data pulse 23, in a sampling frame and in a flush frame, come exactly `GAIN`
trailing pulses, with no sample and no register but `SCK` written, `SCK` ending LOW; then the sign extension in a sampling
frame, the end in a flush frame. -/
def Obligations.GainPulsesAreExactlyGain : Prop :=
  (∀ s : State, s.busy = true → s.HostWaits → s.seq.phase = .dlo → s.seq.k = 23 →
    step s = .next
      { s with
        sck   := false
        trace := s.trace ++ [.ck false]
        seq   := { s.seq with g := 0, phase := .ghi } }) ∧
  (∀ s : State, s.busy = true → s.HostWaits → s.seq.phase = .ghi → s.seq.g = 0 → s.gain ≠ 0 →
    run (2 * s.gain.toNat) s = .next
      { s with
        sck   := false
        trace := s.trace ++ (List.replicate s.gain.toNat plainPulse).flatten
        seq   := { s.seq with g := s.gain, phase := if s.seq.smpl then .ext else .fin } })

/-- R67: `EXT` ORs `0xFF000000` into every register whose bit 23 is set and masks every other with `0x00FFFFFF`, with no
pin event; what is left is `sext_24` of the low 24 bits; and `EXT` is entered only in a sampling frame, from the last gain
pulse. -/
def Obligations.SignExtensionIsByTheTwoMasks : Prop :=
  (∀ s : State, s.busy = true → s.HostWaits → s.seq.phase = .ext →
    ∃ p : Phase, step s = .next
      { s with
        lanes := s.lanes.map fun l =>
          { l with acc := if l.acc.getLsbD 23 then l.acc ||| 0xFF000000 else l.acc &&& 0x00FFFFFF }
        seq   := { s.seq with phase := p } }) ∧
  (∀ w : Word, (if w.getLsbD 23 then w ||| 0xFF000000 else w &&& 0x00FFFFFF) = (w.setWidth 24).signExtend 32) ∧
  (∀ s t : State, step s = .next t → t.seq.phase = .ext → s.seq.phase ≠ .ext →
    s.seq.phase = .glo ∧ s.seq.smpl = true)

/-- R68: for every stale register and every 24 sampled bits, 24 bit writes and the sign extension leave the signed value
of the field `f = sum of b_k * 2^(23-k)`. -/
def Obligations.ReconstructionIgnoresStaleBits : Prop :=
  ∀ (data : List Sample) (i : Nat) (stale : Word), data.length = 24 →
    let acc := signExtend24
      ((List.range 24).foldl (fun w k => writeBit w (23 - k) (Sample.lane (data[k]?.getD []) i)) stale)
    fieldSum data i < 2 ^ 24 ∧
    (fieldSum data i < 2 ^ 23 → acc.toInt = fieldSum data i) ∧
    (2 ^ 23 ≤ fieldSum data i → acc.toInt = (fieldSum data i : Int) - 2 ^ 24)

/-- R71 and R12, on the traces the frame statements give: every frame has 24 + GAIN clock pulses; a sampling frame has
24 samples besides its polls, a flush frame none; started with `SCK` HIGH it has one rising edge fewer (R91). -/
def Obligations.EveryFrameHas24PlusGainPulses : Prop :=
  ∀ (inp : FrameInput) (n : Nat) (gain : BitVec 2), inp.wellFormed n true = true →
    clockPulses false false (inp.samplingTrace n gain) = 24 + gain.toNat ∧
    clockPulses false false (inp.flushTrace n gain) = 24 + gain.toNat ∧
    sampleCount (inp.samplingTrace n gain) = (inp.polls.length + 1) + 24 ∧
    sampleCount (inp.flushTrace n gain) = inp.polls.length + 1 ∧
    risingEdges true (inp.samplingTrace n gain) + 1 = 24 + gain.toNat ∧
    risingEdges true (inp.flushTrace n gain) + 1 = 24 + gain.toNat ∧
    clockLevel true (inp.samplingTrace n gain) = false ∧
    clockLevel true (inp.flushTrace n gain) = false

/-! ### The commands -/

/-- R69: READRAW is accepted, and its frame leaves every `ACC[i]` its raw sample whatever it held, with the trace of a
sampling frame; `OFFSET`, `GAIN`, `RSP` and all else are unchanged, also when it starts with `SCK = 1`. It hangs as long as
ENV does not answer `0^N`. -/
def Obligations.ReadrawPerformsOneSamplingFrame : Prop :=
  encode .readraw = 0x10000000000000000 ∧
  ∀ s : State, s.Idle → s.HostWaits → s.gain ≠ 0 →
    ∃ t : State, exec .readraw s = .next t ∧
      (∀ inp : FrameInput, inp.wellFormed s.cfg.n true = true → s.Hears (inp.answers s.cfg.n) →
        ∃ q : Seq, q.phase = .idle ∧
          run (inp.samplingSteps s.gain + 1) t = .next
            { s with
              lanes := sampledLanes inp.data s.lanes
              sck   := false
              env   := s.env.advance (inp.answers s.cfg.n).length
              trace := s.trace ++ inp.samplingTrace s.cfg.n s.gain
              seq   := q } ∧
          ∀ i, RawRange (rawSample inp.data i)) ∧
      (∀ m, (∀ j, j < m → ready (s.answer j) = false) → ∃ u, run m t = .next u ∧ u.busy = true)

/-- R70: READRAW.F waits for readiness and clocks 24 + GAIN pulses; nothing but `SCK` is written. It hangs as long as ENV
does not answer `0^N`. -/
def Obligations.ReadrawFPerformsOneFlushFrame : Prop :=
  encode .readrawF = 0x10000000100000000 ∧
  ∀ s : State, s.Idle → s.HostWaits → s.gain ≠ 0 →
    ∃ t : State, exec .readrawF s = .next t ∧
      (∀ inp : FrameInput, inp.wellFormed s.cfg.n false = true → s.Hears (inp.answers s.cfg.n) →
        ∃ q : Seq, q.phase = .idle ∧
          run (inp.flushSteps s.gain + 1) t = .next
            { s with
              sck   := false
              env   := s.env.advance (inp.answers s.cfg.n).length
              trace := s.trace ++ inp.flushTrace s.cfg.n s.gain
              seq   := q }) ∧
      (∀ m, (∀ j, j < m → ready (s.answer j) = false) → ∃ u, run m t = .next u ∧ u.busy = true)

/-- R81, R82, R80: `GAIN` gets the selector's pulse count, or keeps its value for any other selector; then `CK(0)`; then
one flush frame that already issues the new number of pulses. Nothing else changes and nothing is reported. It hangs as
long as ENV does not answer `0^N`. -/
def Obligations.SetgainSetsTheModeAndFlushes : Prop :=
  (∀ g : Word, encode (.setgain g) = (4 : BitVec 4) ++ g ++ (0 : Word)) ∧
  ∀ (s : State) (g : Word) (gain : BitVec 2), s.Idle → s.HostWaits → s.gain ≠ 0 →
    gain = (if g = 128 then 1 else if g = 64 then 3 else if g = 32 then 2 else s.gain) →
    ∃ t : State, exec (.setgain g) s = .next t ∧
      (∀ inp : FrameInput, inp.wellFormed s.cfg.n false = true → s.Hears (inp.answers s.cfg.n) →
        ∃ q : Seq, q.phase = .idle ∧
          run (1 + inp.flushSteps gain + 1) t = .next
            { s with
              gain  := gain
              sck   := false
              env   := s.env.advance (inp.answers s.cfg.n).length
              trace := s.trace ++ .ck false :: inp.flushTrace s.cfg.n gain
              seq   := q }) ∧
      (∀ m, (∀ j, j < m → ready (s.answer j) = false) → ∃ u, run m t = .next u ∧ u.busy = true)

/-- R89: `CK(0)` then `CK(1)`, whatever `SCK` was; `SCK` is left HIGH and nothing else is written. -/
def Obligations.PwrdnDrivesLowThenHigh : Prop :=
  encode .pwrdn = 0x60000000000000000 ∧
  ∀ s : State, s.Idle → s.HostWaits →
    ∃ (t : State) (q : Seq), exec .pwrdn s = .next t ∧ q.phase = .idle ∧
      run 3 t = .next
        { s with sck := true, trace := s.trace ++ [.ck false, .ck true], seq := q }

/-- R90: `CK(0)`, also when `SCK` is LOW already; nothing else is written. -/
def Obligations.PwrupDrivesLow : Prop :=
  encode .pwrup = 0x50000000000000000 ∧
  ∀ s : State, s.Idle → s.HostWaits →
    ∃ (t : State) (q : Seq), exec .pwrup s = .next t ∧ q.phase = .idle ∧
      run 2 t = .next
        { s with sck := false, trace := s.trace ++ [.ck false], seq := q }

/-- R92: `RSP <- N`, with no pin event, no sample and no wait; for a legal configuration the unsigned value of `RSP` is
exactly `N`. That `SCK` stays as it is, also when it is 1 at the start, is the model's choice of R92's "No pin event" over
the derived sentence of R18 that every command but PWRDN leaves `SCK = 0` (notes/assumptions/15.md). -/
def Obligations.ChcntAnswersTheChannelCount : Prop :=
  encode .chcnt = 0x70000000000000000 ∧
  ∀ s : State, s.Idle → s.HostWaits →
    ∃ (t : State) (q : Seq), exec .chcnt s = .next t ∧ q.phase = .idle ∧
      run 1 t = .next { s with rsp := BitVec.ofNat 32 s.cfg.n, seq := q } ∧
      (s.cfg.wellFormed = true → (BitVec.ofNat 32 s.cfg.n).toNat = s.cfg.n)

/-- R97: READ is READRAW followed by the subtraction of every offset, modulo 2^32 and exact on offsets in the range of a
raw sample; the offsets and all else are unchanged. It hangs as long as ENV does not answer `0^N`. -/
def Obligations.ReadSubtractsTheOffsets : Prop :=
  encode .read = 0x20000000000000000 ∧
  ∀ s : State, s.Idle → s.HostWaits → s.gain ≠ 0 →
    ∃ t : State, exec .read s = .next t ∧
      (∀ inp : FrameInput, inp.wellFormed s.cfg.n true = true → s.Hears (inp.answers s.cfg.n) →
        ∃ q : Seq, q.phase = .idle ∧
          run (inp.samplingSteps s.gain + 2) t = .next
            { s with
              lanes := s.lanes.mapIdx fun i l => { l with acc := rawSample inp.data i - l.offset }
              sck   := false
              env   := s.env.advance (inp.answers s.cfg.n).length
              trace := s.trace ++ inp.samplingTrace s.cfg.n s.gain
              seq   := q } ∧
          ∀ i, ∀ l ∈ s.lanes, RawRange l.offset →
            (rawSample inp.data i - l.offset).toInt = (rawSample inp.data i).toInt - l.offset.toInt) ∧
      (∀ m, (∀ j, j < m → ready (s.answer j) = false) → ∃ u, run m t = .next u ∧ u.busy = true)

/-- R15, R97: READ's subtraction is the exact integer difference, in `-(2^24 - 1) .. 2^24 - 1`: every raw sample and,
in a state meeting the invariant, every offset is in the range of a raw sample. -/
def Obligations.ReadSubtractionNeverWraps : Prop :=
  ∀ (s : State) (l : Lane) (data : List Sample) (i : Nat), s.Inv → l ∈ s.lanes →
    (rawSample data i - l.offset).toInt = (rawSample data i).toInt - l.offset.toInt ∧
    -(2 ^ 24 - 1) ≤ (rawSample data i - l.offset).toInt ∧
    (rawSample data i - l.offset).toInt ≤ 2 ^ 24 - 1

/-- R98: READ.F is in every respect a flush read: the same outcome as READRAW.F, `ACC` and `OFFSET` untouched. It hangs
as long as ENV does not answer `0^N`. -/
def Obligations.ReadFIsAPlainFlush : Prop :=
  encode .readF = 0x20000000100000000 ∧
  ∀ s : State, s.Idle → s.HostWaits → s.gain ≠ 0 →
    ∃ t : State, exec .readF s = .next t ∧
      (∀ inp : FrameInput, inp.wellFormed s.cfg.n false = true → s.Hears (inp.answers s.cfg.n) →
        ∃ q : Seq, q.phase = .idle ∧
          run (inp.flushSteps s.gain + 1) t = .next
            { s with
              sck   := false
              env   := s.env.advance (inp.answers s.cfg.n).length
              trace := s.trace ++ inp.flushTrace s.cfg.n s.gain
              seq   := q }) ∧
      (∀ m, (∀ j, j < m → ready (s.answer j) = false) → ∃ u, run m t = .next u ∧ u.busy = true)

/-- R100, R102 to R104: TARE performs all `T` sampling frames, and then either leaves every offset and sets `RSP` to 0,
exactly when `K != 0`, `T > 1` and some channel's greatest sample exceeds its least by more than `K` (never when
`K >= 2^24 - 1`), or replaces all N offsets by the means and sets `RSP` to 1. `ACC` holds the last raw samples and the
statistics are those of the recorded samples. It hangs in any of its readiness waits in which ENV does not answer `0^N`;
`T = 0` is refused. -/
def Obligations.TareCommitsTheMeansOrRejects : Prop :=
  (∀ t k : Word, encode (.tare t k) = (3 : BitVec 4) ++ t ++ k) ∧
  (∀ (s : State) (k : Word), s.busy = false → exec (.tare 0 k) s = .refused .tareZeroSamples) ∧
  ∀ (s : State) (t k : Word), s.Idle → s.HostWaits → s.gain ≠ 0 → s.lanes.length = s.cfg.n → t ≠ 0 →
    ∃ u : State, exec (.tare t k) s = .next u ∧
      (∀ frames : List FrameInput, frames.length = t.toNat →
        (∀ inp ∈ frames, inp.wellFormed s.cfg.n true = true) → s.Hears (tareAnswers s.cfg.n frames) →
          (2 ^ 24 - 1 ≤ k.toNat → attemptRejected t k s.cfg.n frames = false) ∧
          ∃ q : Seq, q.phase = .idle ∧
            run (tareSteps s.gain frames) u = .next
              { s with
                lanes := taredLanes (attemptRejected t k s.cfg.n frames) frames s.lanes
                sck   := false
                rsp   := if attemptRejected t k s.cfg.n frames then 0 else 1
                env   := s.env.advance (tareAnswers s.cfg.n frames).length
                trace := s.trace ++ tareTrace s.cfg.n s.gain frames
                seq   := q }) ∧
      (∀ (taken : List FrameInput) (m : Nat), taken.length < t.toNat →
        (∀ inp ∈ taken, inp.wellFormed s.cfg.n true = true) → s.Hears (tareAnswers s.cfg.n taken) →
        (∀ j, j < m → ready (s.answer ((tareAnswers s.cfg.n taken).length + j)) = false) →
          ∃ v, run ((taken.map fun inp => inp.samplingSteps s.gain + 1).sum + m) u = .next v ∧ v.busy = true)

/-! ### Calibration -/

/-- R101: in a state meeting the invariant, `STAT` updates every lane's least and greatest sample and its sum exactly, as
mathematical integers, and counts the sample; then the next frame, or the verdict after the `T`-th. -/
def Obligations.StatisticsAreExact : Prop :=
  ∀ s : State, s.Inv → s.HostWaits → s.seq.phase = .stat →
    ∃ u : State, step s = .next u ∧ u.lanes.length = s.lanes.length ∧
      u.seq.tc.toNat = s.seq.tc.toNat + 1 ∧
      u.seq.phase = (if s.seq.tc.toNat + 1 < s.seq.al.toNat then .poll else .judge) ∧
      ∀ (i : Nat) (l : Lane), s.lanes[i]? = some l →
        ∃ m : Lane, u.lanes[i]? = some m ∧ m.acc = l.acc ∧ m.offset = l.offset ∧
          (s.seq.tc = 0 → m.min = l.acc ∧ m.max = l.acc ∧ m.sum.toInt = l.acc.toInt) ∧
          (s.seq.tc ≠ 0 → m.min.toInt = min l.min.toInt l.acc.toInt ∧
            m.max.toInt = max l.max.toInt l.acc.toInt ∧ m.sum.toInt = l.sum.toInt + l.acc.toInt)

/-- R102 to R104: in one micro-step `JUDGE` either sets `RSP` to 0 and changes no offset, exactly when `K != 0`, `T > 1`
and some channel has `max - min > K`, or sets `RSP` to 1 and every offset to `tdiv(SUM, T)`; there is no pin event. -/
def Obligations.JudgeCommitsAllOffsetsOrNone : Prop :=
  ∀ s : State, s.busy = true → s.HostWaits → s.seq.phase = .judge → s.seq.al ≠ 0 →
    ((s.seq.bl ≠ 0 ∧ 1 < s.seq.al.toNat ∧
        ∃ l ∈ s.lanes, (s.seq.bl.toNat : Int) < l.max.toInt - l.min.toInt) →
      step s = .next { s with rsp := 0, seq := { s.seq with phase := .fin } }) ∧
    (¬ (s.seq.bl ≠ 0 ∧ 1 < s.seq.al.toNat ∧
        ∃ l ∈ s.lanes, (s.seq.bl.toNat : Int) < l.max.toInt - l.min.toInt) →
      step s = .next
        { s with
          lanes := s.lanes.map fun l =>
            { l with offset := BitVec.ofInt 32 (Int.tdiv l.sum.toInt s.seq.al.toNat) }
          rsp   := 1
          seq   := { s.seq with phase := .fin } })

/-- R102, R104: with `T > 1` and `K > 0` a TARE whose every spread is at most `K` is accepted, and one in which some
channel's spread is at least `K + 1` is rejected with every offset unchanged. -/
def Obligations.SpreadOfKIsAcceptedAndOfKPlusOneRejected : Prop :=
  ∀ (s : State) (t k : Word) (frames : List FrameInput), s.Idle → s.HostWaits → s.gain ≠ 0 →
    s.lanes.length = s.cfg.n → 1 < t.toNat → k ≠ 0 → frames.length = t.toNat →
    (∀ inp ∈ frames, inp.wellFormed s.cfg.n true = true) → s.Hears (tareAnswers s.cfg.n frames) →
      ∃ u v : State, exec (.tare t k) s = .next u ∧ run (tareSteps s.gain frames) u = .next v ∧ v.Idle ∧
        ((∀ i, i < s.cfg.n → ∀ x ∈ tareSamples frames i, ∀ y ∈ tareSamples frames i, x - y ≤ k.toNat) →
          v.rsp = 1) ∧
        ((∃ i, i < s.cfg.n ∧ ∃ x ∈ tareSamples frames i, ∃ y ∈ tareSamples frames i, x - y = k.toNat + 1) →
          v.rsp = 0 ∧ v.lanes.map Lane.offset = s.lanes.map Lane.offset)

/-- R105: a TARE with `T = 1` or with `K = 0` is accepted whatever the spread; with `T = 1` every offset becomes the one
raw sample exactly. -/
def Obligations.TareWithOneSampleOrNoToleranceIsAccepted : Prop :=
  ∀ (s : State) (t k : Word) (frames : List FrameInput), s.Idle → s.HostWaits → s.gain ≠ 0 →
    s.lanes.length = s.cfg.n → t ≠ 0 → (t = 1 ∨ k = 0) → frames.length = t.toNat →
    (∀ inp ∈ frames, inp.wellFormed s.cfg.n true = true) → s.Hears (tareAnswers s.cfg.n frames) →
      ∃ u v : State, exec (.tare t k) s = .next u ∧ run (tareSteps s.gain frames) u = .next v ∧ v.Idle ∧
        v.rsp = 1 ∧
        (t = 1 → ∀ inp, frames = [inp] →
          v.lanes.map Lane.offset = s.lanes.mapIdx fun i _ => rawSample inp.data i)

/-- R99: after a TARE in which channel `i` sent the same raw sample `m i` in every frame, every offset is `m i` exactly
and `RSP` is 1, and a READ in which the channels send `m` again leaves 0 in every `ACC[i]`. -/
def Obligations.TareThenReadOfTheSameInputGivesZero : Prop :=
  ∀ (s : State) (t k : Word) (frames : List FrameInput) (last : FrameInput) (m : Nat → Word),
    s.Idle → s.HostWaits → s.gain ≠ 0 → s.lanes.length = s.cfg.n → t ≠ 0 → frames.length = t.toNat →
    (∀ inp ∈ frames, inp.wellFormed s.cfg.n true = true) → last.wellFormed s.cfg.n true = true →
    (∀ inp ∈ frames, ∀ i, i < s.cfg.n → rawSample inp.data i = m i) →
    (∀ i, i < s.cfg.n → rawSample last.data i = m i) →
    s.Hears (tareAnswers s.cfg.n frames ++ last.answers s.cfg.n) →
      ∃ u v w x : State,
        exec (.tare t k) s = .next u ∧ run (tareSteps s.gain frames) u = .next v ∧ v.Idle ∧ v.rsp = 1 ∧
        v.lanes.map Lane.offset = s.lanes.mapIdx (fun i _ => m i) ∧
        exec .read v = .next w ∧ run (last.samplingSteps v.gain + 2) w = .next x ∧ x.Idle ∧
        ∀ l ∈ x.lanes, l.acc = 0

/-- R39, R64: lanes never interact. In a micro-step lane `i` of the result depends on lane `i` and its own data line only,
but for the two exceptions the rule names: readiness (the same sequencer state is assumed, and `POLL` writes no lane)
and the verdict of a TARE (the same `RSP` afterwards is assumed). -/
def Obligations.LanesDoNotInteract : Prop :=
  ∀ (s s' t t' : State) (i : Nat), micro s = .next t → micro s' = .next t' → s.seq = s'.seq →
    s.lanes[i]? = s'.lanes[i]? → Sample.lane s.din i = Sample.lane s'.din i →
    (s.seq.phase = .judge → t.rsp = t'.rsp) →
      t.lanes[i]? = t'.lanes[i]?

/-! ### Who writes what -/

/-- R13: a step changes some `ACC[i]` only in `DSMP`, `EXT` or `SUB`, or when a reset begins. -/
def Obligations.AccIsWrittenOnlyByShiftExtendSubtract : Prop :=
  ∀ s t : State, step s = .next t →
    t.lanes.map Lane.acc = s.lanes.map Lane.acc ∨
    (s.seq.phase = .dsmp ∨ s.seq.phase = .ext ∨ s.seq.phase = .sub) ∨
    ∃ r, s.BeginsReset r

/-- R14, R45: a step changes some `OFFSET[i]` only in a `JUDGE` that succeeds, which replaces all of them by the means,
or when a reset begins, which zeroes all of them. -/
def Obligations.OffsetsAreWrittenOnlyByCommitAndReset : Prop :=
  ∀ s t : State, step s = .next t →
    t.lanes.map Lane.offset = s.lanes.map Lane.offset ∨
    (s.seq.phase = .judge ∧ t.rsp = 1 ∧
      t.lanes.map Lane.offset =
        s.lanes.map fun l => BitVec.ofInt 32 (Int.tdiv l.sum.toInt s.seq.al.toNat)) ∨
    (∃ r, s.BeginsReset r ∧ t.lanes.map Lane.offset = List.replicate r.cfg.n 0)

/-- R16, R17, R84: a step changes `GAIN` only in accepting a SETGAIN with a valid selector, or when a reset applies
`INIT_GAIN`, and then to that selector's pulse count. -/
def Obligations.GainIsWrittenOnlyBySetgainAndReset : Prop :=
  ∀ s t : State, step s = .next t →
    t.gain = s.gain ∨
    ∃ g : Word, ((s.Accepts (.setgain g)) ∨ ∃ r, s.BeginsReset r ∧ r.cfg.initGain = g) ∧
      ((g = 128 ∧ t.gain = 1) ∨ (g = 64 ∧ t.gain = 3) ∨ (g = 32 ∧ t.gain = 2))

/-- R21: a step changes `RSP` only in TARE's `JUDGE`, to 1 or 0, or in accepting CHCNT, to `N`; or a reset begins, which
leaves it unspecified: that it is then the request's value is the model's choice (notes/assumptions/7.md). -/
def Obligations.RspIsWrittenOnlyByTareAndChcnt : Prop :=
  ∀ s t : State, step s = .next t →
    t.rsp = s.rsp ∨
    (s.seq.phase = .judge ∧ (t.rsp = 1 ∨ t.rsp = 0)) ∨
    (s.Accepts .chcnt ∧ t.rsp = BitVec.ofNat 32 s.cfg.n) ∨
    ∃ r, s.BeginsReset r ∧ t.rsp = r.junk.rsp

/-- R5, R6: the configuration is changed by nothing but a reset, which takes the whole of a well-formed one. -/
def Obligations.ConfigurationIsFixedBetweenResets : Prop :=
  ∀ s t : State, step s = .next t →
    t.cfg = s.cfg ∨ ∃ r, s.BeginsReset r ∧ t.cfg = r.cfg ∧ t.lanes.length = r.cfg.n

/-- R19: nothing but a reset writes `DEBUG`, and nothing reads it. -/
def Obligations.DebugHasNoEffect : Prop :=
  (∀ s t : State, step s = .next t → t.debug = s.debug ∨ (t.debug = false ∧ ∃ r, s.BeginsReset r)) ∧
  (∀ (s : State) (d : Bool), (∀ r, ¬ s.BeginsReset r) →
    step { s with debug := d } = mapNext (fun t => { t with debug := d }) (step s))

/-- R35, R43, R72: a step adds at most one event to the trace and removes none, and `SCK` is the level of the last `CK`
event: it changes only with one. -/
def Obligations.AtMostOnePinEventAStep : Prop :=
  ∀ s t : State, step s = .next t →
    ∃ es : List Event, es.length ≤ 1 ∧ t.trace = s.trace ++ es ∧ t.sck = clockLevel s.sck es

/-- R20: `BUSY` is set in the step that accepts a command or begins a reset, and cleared in `FIN` only; a frame presented
while it is set is refused, whatever the frame. -/
def Obligations.BusyFromAcceptanceToFin : Prop :=
  (∀ s t : State, step s = .next t → s.busy = true → (t.busy = false ↔ s.seq.phase = .fin)) ∧
  (∀ s t : State, step s = .next t → s.busy = false →
    t.busy = true → (∃ i, s.Accepts i) ∨ ∃ r, s.BeginsReset r) ∧
  (∀ (i : Instr) (s t : State), exec i s = .next t → s.busy = false ∧ t.busy = true) ∧
  (∀ (s : State) (f : Frame) (later : List HostInput), s.busy = true → s.host = .frameNow f :: later →
    step s = .refused .commandWhileBusy)

/-- R48, R54: when `BUSY = 0` the host reads all of `ACC`, in channel order, and `RSP`. That a read while `BUSY = 1` gives
nothing is the model's choice (notes/assumptions/18.md): R140 only forbids the host to read then. -/
def Obligations.HostReadsResultsOnlyWhenIdle : Prop :=
  ∀ s : State,
    (s.busy = true → s.hostAcc = none ∧ s.hostRsp = none) ∧
    (s.busy = false → s.hostAcc = some (s.lanes.map fun l => l.acc) ∧ s.hostRsp = some s.rsp)

/-- R34: under a legal configuration the clock line is an output and every data line an input, and never the other. -/
def Obligations.ClockLineIsOutputAndDataLinesAreInputs : Prop :=
  ∀ c : Config, c.wellFormed = true →
    c.direction c.cpin = some .output ∧
    (∀ pin ∈ c.dpin, c.direction pin = some .input) ∧
    (∀ pin, c.direction pin = some .output → pin = c.cpin)

/-! ### Reset and the invariant -/

/-- R133, R28, R135: from an idle block a reset with a legal configuration sets `BUSY`, drives `CK(0)`, `CK(0)`, waits, and
clocks one flush frame with the pulse count of `INIT_GAIN`; then `SCK = 0`, every offset is 0, `GAIN` is that count,
`DEBUG = 0`, `BUSY = 0`, and the block is in `IDLE` with N lanes. A reset with any other configuration is refused. That `ACC`
and `RSP`, unspecified by R28, take the values of the reset request is the model's choice (notes/assumptions/7.md), and so is
the grouping of the writes before the second `CK(0)` into the first step (notes/assumptions/16.md). -/
def Obligations.ResetSequenceLeavesTheResetValues : Prop :=
  (∀ (s : State) (r : ResetRequest) (later : List HostInput), s.busy = false → s.Resets r later →
    r.cfg.wellFormed = false → step s = .refused .badConfiguration) ∧
  ∀ (s : State) (r : ResetRequest) (later : List HostInput) (inp : FrameInput) (gain : BitVec 2),
    s.Idle → s.Resets r later → r.cfg.wellFormed = true → ({ s with host := later } : State).HostWaits →
    gain = (if r.cfg.initGain = 128 then 1 else if r.cfg.initGain = 64 then 3 else 2) →
    inp.wellFormed r.cfg.n false = true → ({ s with cfg := r.cfg } : State).Hears (inp.answers r.cfg.n) →
      ∃ t u : State, step s = .next t ∧ t.busy = true ∧ run (1 + inp.flushSteps gain + 1) t = .next u ∧
        u.Idle ∧ u.cfg = r.cfg ∧ u.sck = false ∧ u.gain = gain ∧ u.debug = false ∧
        u.lanes.map Lane.offset = List.replicate r.cfg.n 0 ∧
        u.lanes.map Lane.acc = (List.range r.cfg.n).map (fun i => (r.junk.lanes[i]?.getD Lane.zero).acc) ∧
        u.rsp = r.junk.rsp ∧ u.host = later ∧
        u.env = s.env.advance (inp.answers r.cfg.n).length ∧
        u.trace = s.trace ++ .ck false :: .ck false :: inp.flushTrace r.cfg.n gain

/-- R28, for the default selector of R7: the values the spec gives for the state after reset completes. The channel count
of `State.reset` is the model's choice (notes/assumptions/1.md), and so are the values of the registers not named here
(notes/assumptions/2.md). -/
def Obligations.StateAfterReset : Prop :=
  State.reset.sck = false ∧ State.reset.gain = 1 ∧ State.reset.debug = false ∧ State.reset.busy = false ∧
  State.reset.seq.phase = .idle ∧ State.reset.cfg.initGain = 128 ∧
  State.reset.lanes.length = State.reset.cfg.n ∧ ∀ l ∈ State.reset.lanes, l.offset = 0

/-- The invariant holds after reset. -/
def Obligations.InvariantHoldsAfterReset : Prop :=
  State.reset.Inv

/-- Every step keeps the invariant: `GAIN` in 1, 2, 3 (R16); `BUSY` exactly outside `IDLE` (R20); the counters in their
ranges (R22); the clock level each phase requires (R63, R65); offsets and raw samples in the range of R15; statistics in
order and sums without overflow (R23). -/
def Obligations.EveryStepKeepsTheInvariant : Prop :=
  ∀ s t : State, s.Inv → step s = .next t → t.Inv

/-- "A micro-step not listed does not exist" (R72), and none is ever needed: a step from a state that meets the invariant
is never one of the model's faults. -/
def Obligations.NoFaultUnderTheInvariant : Prop :=
  ∀ (s : State) (r : Fault), s.Inv → step s ≠ .fault r
end

