-- ==== Sys2Proof/Laws/State.lean ====
section
/-! SUPPORT. One lemma per field per named update of the state, true by unfolding the update once, so that no later
proof unfolds a record update. -/

namespace Sys2Proof.Machine

/-! ### `State.sampled`: `DIN()`: only ENV and the trace change. -/

@[simp] theorem State.sampled_cfg (s : State) :
    (s.sampled).cfg = s.cfg := rfl

@[simp] theorem State.sampled_lanes (s : State) :
    (s.sampled).lanes = s.lanes := rfl

@[simp] theorem State.sampled_gain (s : State) :
    (s.sampled).gain = s.gain := rfl

@[simp] theorem State.sampled_sck (s : State) :
    (s.sampled).sck = s.sck := rfl

@[simp] theorem State.sampled_debug (s : State) :
    (s.sampled).debug = s.debug := rfl

@[simp] theorem State.sampled_busy (s : State) :
    (s.sampled).busy = s.busy := rfl

@[simp] theorem State.sampled_rsp (s : State) :
    (s.sampled).rsp = s.rsp := rfl

@[simp] theorem State.sampled_seq (s : State) :
    (s.sampled).seq = s.seq := rfl

@[simp] theorem State.sampled_env (s : State) :
    (s.sampled).env = s.env.advance 1 := rfl

@[simp] theorem State.sampled_host (s : State) :
    (s.sampled).host = s.host := rfl

@[simp] theorem State.sampled_trace (s : State) :
    (s.sampled).trace = s.trace ++ [.smp s.din] := rfl

/-! ### `State.writeClock`: `SCK <- b`: only `SCK` and the trace change. -/

@[simp] theorem State.writeClock_cfg (s : State) (b : Bool) :
    (s.writeClock b).cfg = s.cfg := rfl

@[simp] theorem State.writeClock_lanes (s : State) (b : Bool) :
    (s.writeClock b).lanes = s.lanes := rfl

@[simp] theorem State.writeClock_gain (s : State) (b : Bool) :
    (s.writeClock b).gain = s.gain := rfl

@[simp] theorem State.writeClock_sck (s : State) (b : Bool) :
    (s.writeClock b).sck = b := rfl

@[simp] theorem State.writeClock_debug (s : State) (b : Bool) :
    (s.writeClock b).debug = s.debug := rfl

@[simp] theorem State.writeClock_busy (s : State) (b : Bool) :
    (s.writeClock b).busy = s.busy := rfl

@[simp] theorem State.writeClock_rsp (s : State) (b : Bool) :
    (s.writeClock b).rsp = s.rsp := rfl

@[simp] theorem State.writeClock_seq (s : State) (b : Bool) :
    (s.writeClock b).seq = s.seq := rfl

@[simp] theorem State.writeClock_env (s : State) (b : Bool) :
    (s.writeClock b).env = s.env := rfl

@[simp] theorem State.writeClock_host (s : State) (b : Bool) :
    (s.writeClock b).host = s.host := rfl

@[simp] theorem State.writeClock_trace (s : State) (b : Bool) :
    (s.writeClock b).trace = s.trace ++ [.ck b] := rfl

/-! ### `State.goto`: Only `PHASE` changes. -/

@[simp] theorem State.goto_cfg (s : State) (p : Phase) :
    (s.goto p).cfg = s.cfg := rfl

@[simp] theorem State.goto_lanes (s : State) (p : Phase) :
    (s.goto p).lanes = s.lanes := rfl

@[simp] theorem State.goto_gain (s : State) (p : Phase) :
    (s.goto p).gain = s.gain := rfl

@[simp] theorem State.goto_sck (s : State) (p : Phase) :
    (s.goto p).sck = s.sck := rfl

@[simp] theorem State.goto_debug (s : State) (p : Phase) :
    (s.goto p).debug = s.debug := rfl

@[simp] theorem State.goto_busy (s : State) (p : Phase) :
    (s.goto p).busy = s.busy := rfl

@[simp] theorem State.goto_rsp (s : State) (p : Phase) :
    (s.goto p).rsp = s.rsp := rfl

@[simp] theorem State.goto_seq (s : State) (p : Phase) :
    (s.goto p).seq = { s.seq with phase := p } := rfl

@[simp] theorem State.goto_env (s : State) (p : Phase) :
    (s.goto p).env = s.env := rfl

@[simp] theorem State.goto_host (s : State) (p : Phase) :
    (s.goto p).host = s.host := rfl

@[simp] theorem State.goto_trace (s : State) (p : Phase) :
    (s.goto p).trace = s.trace := rfl

/-! ### `State.mapLanes`: Only the lanes change. -/

@[simp] theorem State.mapLanes_cfg (s : State) (f : Lane → Lane) :
    (s.mapLanes f).cfg = s.cfg := rfl

@[simp] theorem State.mapLanes_lanes (s : State) (f : Lane → Lane) :
    (s.mapLanes f).lanes = s.lanes.map f := rfl

@[simp] theorem State.mapLanes_gain (s : State) (f : Lane → Lane) :
    (s.mapLanes f).gain = s.gain := rfl

@[simp] theorem State.mapLanes_sck (s : State) (f : Lane → Lane) :
    (s.mapLanes f).sck = s.sck := rfl

@[simp] theorem State.mapLanes_debug (s : State) (f : Lane → Lane) :
    (s.mapLanes f).debug = s.debug := rfl

@[simp] theorem State.mapLanes_busy (s : State) (f : Lane → Lane) :
    (s.mapLanes f).busy = s.busy := rfl

@[simp] theorem State.mapLanes_rsp (s : State) (f : Lane → Lane) :
    (s.mapLanes f).rsp = s.rsp := rfl

@[simp] theorem State.mapLanes_seq (s : State) (f : Lane → Lane) :
    (s.mapLanes f).seq = s.seq := rfl

@[simp] theorem State.mapLanes_env (s : State) (f : Lane → Lane) :
    (s.mapLanes f).env = s.env := rfl

@[simp] theorem State.mapLanes_host (s : State) (f : Lane → Lane) :
    (s.mapLanes f).host = s.host := rfl

@[simp] theorem State.mapLanes_trace (s : State) (f : Lane → Lane) :
    (s.mapLanes f).trace = s.trace := rfl

/-! ### `State.writeLaneBits`: Only the lanes change. -/

@[simp] theorem State.writeLaneBits_cfg (s : State) (b : Nat) (v : Sample) :
    (s.writeLaneBits b v).cfg = s.cfg := rfl

@[simp] theorem State.writeLaneBits_lanes (s : State) (b : Nat) (v : Sample) :
    (s.writeLaneBits b v).lanes = s.lanes.mapIdx fun i l => { l with acc := writeBit l.acc b (Sample.lane v i) } := rfl

@[simp] theorem State.writeLaneBits_gain (s : State) (b : Nat) (v : Sample) :
    (s.writeLaneBits b v).gain = s.gain := rfl

@[simp] theorem State.writeLaneBits_sck (s : State) (b : Nat) (v : Sample) :
    (s.writeLaneBits b v).sck = s.sck := rfl

@[simp] theorem State.writeLaneBits_debug (s : State) (b : Nat) (v : Sample) :
    (s.writeLaneBits b v).debug = s.debug := rfl

@[simp] theorem State.writeLaneBits_busy (s : State) (b : Nat) (v : Sample) :
    (s.writeLaneBits b v).busy = s.busy := rfl

@[simp] theorem State.writeLaneBits_rsp (s : State) (b : Nat) (v : Sample) :
    (s.writeLaneBits b v).rsp = s.rsp := rfl

@[simp] theorem State.writeLaneBits_seq (s : State) (b : Nat) (v : Sample) :
    (s.writeLaneBits b v).seq = s.seq := rfl

@[simp] theorem State.writeLaneBits_env (s : State) (b : Nat) (v : Sample) :
    (s.writeLaneBits b v).env = s.env := rfl

@[simp] theorem State.writeLaneBits_host (s : State) (b : Nat) (v : Sample) :
    (s.writeLaneBits b v).host = s.host := rfl

@[simp] theorem State.writeLaneBits_trace (s : State) (b : Nat) (v : Sample) :
    (s.writeLaneBits b v).trace = s.trace := rfl

/-! ### `State.startFrame`: Only `SMPL` and `PHASE` change. -/

@[simp] theorem State.startFrame_cfg (s : State) (b : Bool) :
    (s.startFrame b).cfg = s.cfg := rfl

@[simp] theorem State.startFrame_lanes (s : State) (b : Bool) :
    (s.startFrame b).lanes = s.lanes := rfl

@[simp] theorem State.startFrame_gain (s : State) (b : Bool) :
    (s.startFrame b).gain = s.gain := rfl

@[simp] theorem State.startFrame_sck (s : State) (b : Bool) :
    (s.startFrame b).sck = s.sck := rfl

@[simp] theorem State.startFrame_debug (s : State) (b : Bool) :
    (s.startFrame b).debug = s.debug := rfl

@[simp] theorem State.startFrame_busy (s : State) (b : Bool) :
    (s.startFrame b).busy = s.busy := rfl

@[simp] theorem State.startFrame_rsp (s : State) (b : Bool) :
    (s.startFrame b).rsp = s.rsp := rfl

@[simp] theorem State.startFrame_seq (s : State) (b : Bool) :
    (s.startFrame b).seq = { s.seq with smpl := b, phase := .poll } := rfl

@[simp] theorem State.startFrame_env (s : State) (b : Bool) :
    (s.startFrame b).env = s.env := rfl

@[simp] theorem State.startFrame_host (s : State) (b : Bool) :
    (s.startFrame b).host = s.host := rfl

@[simp] theorem State.startFrame_trace (s : State) (b : Bool) :
    (s.startFrame b).trace = s.trace := rfl

/-! ### `State.startGain`: Only `GAIN`, `SMPL` and `PHASE` change. -/

@[simp] theorem State.startGain_cfg (s : State) (g : Word) :
    (s.startGain g).cfg = s.cfg := rfl

@[simp] theorem State.startGain_lanes (s : State) (g : Word) :
    (s.startGain g).lanes = s.lanes := rfl

@[simp] theorem State.startGain_gain (s : State) (g : Word) :
    (s.startGain g).gain = gainAfter g s.gain := rfl

@[simp] theorem State.startGain_sck (s : State) (g : Word) :
    (s.startGain g).sck = s.sck := rfl

@[simp] theorem State.startGain_debug (s : State) (g : Word) :
    (s.startGain g).debug = s.debug := rfl

@[simp] theorem State.startGain_busy (s : State) (g : Word) :
    (s.startGain g).busy = s.busy := rfl

@[simp] theorem State.startGain_rsp (s : State) (g : Word) :
    (s.startGain g).rsp = s.rsp := rfl

@[simp] theorem State.startGain_seq (s : State) (g : Word) :
    (s.startGain g).seq = { s.seq with smpl := false, phase := .pd0 } := rfl

@[simp] theorem State.startGain_env (s : State) (g : Word) :
    (s.startGain g).env = s.env := rfl

@[simp] theorem State.startGain_host (s : State) (g : Word) :
    (s.startGain g).host = s.host := rfl

@[simp] theorem State.startGain_trace (s : State) (g : Word) :
    (s.startGain g).trace = s.trace := rfl

/-! ### Lanes -/

@[simp] theorem Lane.extend_acc (l : Lane) : (l.extend).acc = signExtend24 l.acc := rfl

@[simp] theorem Lane.extend_offset (l : Lane) : (l.extend).offset = l.offset := rfl

@[simp] theorem Lane.extend_min (l : Lane) : (l.extend).min = l.min := rfl

@[simp] theorem Lane.extend_max (l : Lane) : (l.extend).max = l.max := rfl

@[simp] theorem Lane.extend_sum (l : Lane) : (l.extend).sum = l.sum := rfl

@[simp] theorem Lane.correct_acc (l : Lane) : (l.correct).acc = l.acc - l.offset := rfl

@[simp] theorem Lane.correct_offset (l : Lane) : (l.correct).offset = l.offset := rfl

@[simp] theorem Lane.correct_min (l : Lane) : (l.correct).min = l.min := rfl

@[simp] theorem Lane.correct_max (l : Lane) : (l.correct).max = l.max := rfl

@[simp] theorem Lane.correct_sum (l : Lane) : (l.correct).sum = l.sum := rfl

@[simp] theorem Lane.commit_acc (l : Lane) (t : Word) : (l.commit t).acc = l.acc := rfl

@[simp] theorem Lane.commit_offset (l : Lane) (t : Word) : (l.commit t).offset = meanWord l.sum t := rfl

@[simp] theorem Lane.commit_min (l : Lane) (t : Word) : (l.commit t).min = l.min := rfl

@[simp] theorem Lane.commit_max (l : Lane) (t : Word) : (l.commit t).max = l.max := rfl

@[simp] theorem Lane.commit_sum (l : Lane) (t : Word) : (l.commit t).sum = l.sum := rfl

@[simp] theorem Lane.accumulate_acc (l : Lane) (first : Bool) : (l.accumulate first).acc = l.acc := by
  cases first <;> rfl

@[simp] theorem Lane.accumulate_offset (l : Lane) (first : Bool) : (l.accumulate first).offset = l.offset := by
  cases first <;> rfl

@[simp] theorem Lane.accumulate_first (l : Lane) :
    l.accumulate true = { l with min := l.acc, max := l.acc, sum := l.acc.signExtend 56 } := rfl

@[simp] theorem Lane.accumulate_later (l : Lane) :
    l.accumulate false =
      { l with min := signedMin l.min l.acc, max := signedMax l.max l.acc, sum := l.sum + l.acc.signExtend 56 } := rfl

/-! ### ENV -/

@[simp] theorem Env.advance_zero (e : Env) : e.advance 0 = e := rfl

@[simp] theorem Env.advance_advance (e : Env) (a b : Nat) : (e.advance a).advance b = e.advance (a + b) := by
  simp [Env.advance, Nat.add_assoc]

/-- After `c` samples the `j`-th next answer is the one that was `c + j` away. -/
theorem State.answer_advance (s : State) (c j : Nat) (t : State) (hc : t.cfg.n = s.cfg.n)
    (he : t.env = s.env.advance c) : t.answer j = s.answer (c + j) := by
  simp [State.answer, hc, he, Env.advance, Nat.add_assoc]

end Sys2Proof.Machine
end

