-- ==== Sys2Proof/Laws/Bits.lean ====
section
/-! SUPPORT. The bit-level laws: the bit write of the shift-in (40_acquisition.md R63), the field it assembles (R38, R68),
and the sign extension (R67). -/

namespace Sys2Proof.Machine

/-- R63: one bit is set or cleared, the other 31 keep their value. -/
theorem writeBit_getLsbD (w : Word) (b j : Nat) (x : Bool) (hb : b < 32) :
    (writeBit w b x).getLsbD j = if j = b then x else w.getLsbD j := by
  by_cases hj : j < 32
  · cases x <;> by_cases h : j = b <;> simp [writeBit, h, hj, hb] <;> intros <;> omega
  · have : j ≠ b := by omega
    rw [if_neg this, BitVec.getLsbD_of_ge _ _ (by omega), BitVec.getLsbD_of_ge _ _ (by omega)]

/-- The register after the first `p` bit writes of a frame (R63). -/
def shiftedIn (stale : Word) (data : List Sample) (i p : Nat) : Word :=
  (List.range p).foldl (fun w k => writeBit w (23 - k) (Sample.lane (data[k]?.getD []) i)) stale

@[simp] theorem shiftedIn_zero (w : Word) (data : List Sample) (i : Nat) : shiftedIn w data i 0 = w := rfl

theorem shiftedIn_succ (w : Word) (data : List Sample) (i p : Nat) :
    shiftedIn w data i (p + 1) =
      writeBit (shiftedIn w data i p) (23 - p) (Sample.lane (data[p]?.getD []) i) := by
  simp [shiftedIn, List.range_succ]

/-- After `p` writes bits 23 down to `24 - p` are the sampled ones, all others stale. -/
theorem shiftedIn_getLsbD (w : Word) (data : List Sample) (i p j : Nat) (hp : p ≤ 24) :
    (shiftedIn w data i p).getLsbD j =
      if 24 - p ≤ j ∧ j < 24 then Sample.lane (data[23 - j]?.getD []) i else w.getLsbD j := by
  induction p with
  | zero => rw [if_neg (by omega)]; rfl
  | succ p ih =>
    rw [shiftedIn_succ, writeBit_getLsbD _ _ _ _ (by omega), ih (by omega)]
    by_cases h : j = 23 - p
    · have e : 23 - (23 - p) = p := by omega
      subst h
      rw [if_pos rfl, if_pos (by omega), e]
    · rw [if_neg h]
      split <;> split <;> first | rfl | omega

theorem fieldValue_append (data : List Sample) (v : Sample) (i : Nat) :
    fieldValue (data ++ [v]) i = 2 * fieldValue data i + (Sample.lane v i).toNat := by
  simp [fieldValue]

/-- R38: bit `j` of the field is the bit sampled `j` pulses before the last. -/
theorem fieldValue_testBit (data : List Sample) (i j : Nat) :
    (fieldValue data i).testBit j =
      if j < data.length then Sample.lane (data[data.length - 1 - j]?.getD []) i else false := by
  induction data using List.reverseRecOn generalizing j with
  | nil => simp [fieldValue]
  | append_singleton data v ih =>
    rw [fieldValue_append]
    cases j with
    | zero => cases h : Sample.lane v i <;> simp [h]
    | succ j =>
      have h2 : (2 * fieldValue data i + (Sample.lane v i).toNat) / 2 = fieldValue data i := by
        cases Sample.lane v i <;> (simp; try omega)
      rw [Nat.testBit_add_one, h2, ih]
      simp only [List.length_append, List.length_cons, List.length_nil]
      split <;> split <;> try first | rfl | omega
      rw [show data.length + (0 + 1) - 1 - (j + 1) = data.length - 1 - j by omega,
        List.getElem?_append_left (by omega)]

/-- R38: bit `j` of a 24-bit field was sampled in data pulse `23 - j`. -/
theorem field_getElem (data : List Sample) (i j : Nat) (hd : data.length = 24) (hj : j < 24) :
    (BitVec.ofNat 24 (fieldValue data i))[j] = Sample.lane (data[23 - j]?.getD []) i := by
  rw [← BitVec.getLsbD_eq_getElem, BitVec.getLsbD_ofNat, fieldValue_testBit]
  simp [hd, hj]

/-- A field of `L` bits is below `2^L`. -/
theorem fieldValue_lt (data : List Sample) (i : Nat) : fieldValue data i < 2 ^ data.length := by
  induction data using List.reverseRecOn with
  | nil => simp [fieldValue]
  | append_singleton data v ih =>
    rw [fieldValue_append, List.length_append, List.length_singleton, Nat.pow_succ]
    cases Sample.lane v i <;> simp <;> omega

/-- The bits of the mask `0xFF000000` (R53). -/
theorem highMask_getElem (j : Nat) (hj : j < 32) : (0xFF000000#32)[j] = decide (24 ≤ j) := by
  revert j; decide

/-- The bits of the mask `0x00FFFFFF` (R53). -/
theorem lowMask_getElem (j : Nat) (hj : j < 32) : (0x00FFFFFF#32)[j] = decide (j < 24) := by
  revert j; decide

/-- R67: the two masks are the sign extension of the low 24 bits. -/
theorem signExtend24_eq (w : Word) : signExtend24 w = (w.setWidth 24).signExtend 32 := by
  ext j hj
  rw [BitVec.getElem_signExtend]
  unfold signExtend24
  by_cases h : w.getLsbD 23 <;> by_cases h24 : j < 24 <;>
    simp_all [BitVec.msb_eq_getLsbD_last, highMask_getElem j hj, lowMask_getElem j hj, Nat.not_lt.mpr]

/-- The raw range is that of a sign-extended 24-bit field (R15). -/
theorem rawRange_signExtend (x : BitVec 24) : RawRange (x.signExtend 32) := by
  have h := x.toInt_lt
  have h' := x.le_toInt
  unfold RawRange
  rw [BitVec.toInt_signExtend_of_le (by omega)]
  omega

theorem rawRange_signExtend24 (w : Word) : RawRange (signExtend24 w) := by
  rw [signExtend24_eq]
  exact rawRange_signExtend _

theorem rawRange_rawSample (data : List Sample) (i : Nat) : RawRange (rawSample data i) :=
  rawRange_signExtend _

/-- R63: after the 24 bit writes bits 23:0 are the field and bits 31:24 are what they were. -/
theorem shiftedIn_all (w : Word) (data : List Sample) (i : Nat) (hd : data.length = 24) :
    shiftedIn w data i 24 = (w &&& 0xFF000000) ||| (BitVec.ofNat 24 (fieldValue data i)).setWidth 32 := by
  ext j hj
  rw [← BitVec.getLsbD_eq_getElem, shiftedIn_getLsbD _ _ _ _ _ (by omega)]
  by_cases h24 : j < 24
  · simp [h24, highMask_getElem j hj, field_getElem, hd]
  · simp [h24, highMask_getElem j hj, Nat.not_lt.mp h24, hj]

/-- R68: the sign extension of the shifted-in register is the raw sample, whatever the register held. -/
theorem signExtend24_shiftedIn (w : Word) (data : List Sample) (i : Nat) (hd : data.length = 24) :
    signExtend24 (shiftedIn w data i 24) = rawSample data i := by
  rw [signExtend24_eq, rawSample, shiftedIn_all w data i hd]
  congr 1
  ext j hj
  have h := highMask_getElem j (by omega)
  simp_all

end Sys2Proof.Machine
end

