-- ==== Sys2Proof/Laws/Calibration.lean ====
section
/-! SUPPORT. The arithmetic of the tare statistics (43_calibration.md R101): signed least and greatest, a sum that never
leaves 56 bits, and a mean that lies between the least and the greatest sample (10_state.md R15, R23). -/

namespace Sys2Proof.Machine

/-- A signed sum that fits its width is the integer sum. -/
theorem toInt_add_of_fits {w : Nat} (a b : BitVec w) (hw : 0 < w) (lo : -2 ^ (w - 1) ≤ a.toInt + b.toInt)
    (hi : a.toInt + b.toInt < 2 ^ (w - 1)) : (a + b).toInt = a.toInt + b.toInt := by
  obtain ⟨v, rfl⟩ : ∃ v, w = v + 1 := ⟨w - 1, by omega⟩
  rw [BitVec.toInt_add]
  simp only [Nat.add_sub_cancel] at lo hi
  apply Int.bmod_eq_of_le <;> push_cast [Nat.pow_succ] <;> omega

theorem signedMin_toInt (a b : Word) : (signedMin a b).toInt = min a.toInt b.toInt := by
  unfold signedMin
  simp only [BitVec.slt_eq_decide, decide_eq_true_eq]
  split <;> omega

theorem signedMax_toInt (a b : Word) : (signedMax a b).toInt = max a.toInt b.toInt := by
  unfold signedMax
  simp only [BitVec.slt_eq_decide, decide_eq_true_eq]
  split <;> omega

/-- A sample widened for the sum keeps its value (R101). -/
theorem widened_toInt (a : Word) : (a.signExtend 56).toInt = a.toInt :=
  BitVec.toInt_signExtend_of_le (by omega)

/-- `TC` times a raw sample stays within 55 bits, since `TC` has 32 (R23). -/
theorem tcTimes_bounds {w : Word} (h : RawRange w) (tc : Nat) :
    (tc : Int) * -2 ^ 23 ≤ tc * w.toInt ∧ (tc : Int) * w.toInt ≤ tc * (2 ^ 23 - 1) :=
  ⟨mul_le_mul_of_nonneg_left h.1 (by omega), mul_le_mul_of_nonneg_left h.2 (by omega)⟩

/-- The sum of a lane in order, with one more raw sample, is exact (R23, R101). -/
theorem sum_exact {l : Lane} {tc : Nat} (ht : tc + 1 < 2 ^ 32) (hacc : RawRange l.acc) (hs : l.StatsOk tc) :
    (l.sum + l.acc.signExtend 56).toInt = l.sum.toInt + l.acc.toInt := by
  obtain ⟨hmin, hmax, -, hlo, hhi⟩ := hs
  have h1 := (tcTimes_bounds hmin tc).1
  have h2 := (tcTimes_bounds hmax tc).2
  have h3 := hacc.1
  have h4 := hacc.2
  rw [toInt_add_of_fits _ _ (by omega), widened_toInt] <;> rw [widened_toInt] <;> norm_num at * <;> omega

/-- R102 and R103's verdict in words: rejected exactly when the three conditions hold. -/
theorem tareRejects_iff (t k : Word) (lanes : List Lane) :
    tareRejects t k lanes = true ↔
      k ≠ 0 ∧ 1 < t.toNat ∧ ∃ l ∈ lanes, (k.toNat : Int) < l.max.toInt - l.min.toInt := by
  unfold tareRejects Lane.spread
  rw [Bool.and_eq_true, Bool.and_eq_true, List.any_eq_true]
  simp only [decide_eq_true_eq, and_assoc]

/-- The mean of a lane in order is exact, and a raw sample (R15, R101). -/
theorem meanWord_of_statsOk {l : Lane} {t : Word} (ht : t ≠ 0) (hs : l.StatsOk t.toNat) :
    (meanWord l.sum t).toInt = Int.tdiv l.sum.toInt t.toNat ∧ RawRange (meanWord l.sum t) := by
  obtain ⟨hmin, hmax, -, hlo, hhi⟩ := hs
  have hpos : (0 : Int) < t.toNat := by
    have : t.toNat ≠ 0 := fun h => ht (BitVec.eq_of_toNat_eq h)
    omega
  have h1 := (tcTimes_bounds hmin t.toNat).1
  have h2 := (tcTimes_bounds hmax t.toNat).2
  have hdiv := Int.mul_tdiv_add_tmod l.sum.toInt t.toNat
  have hlt := Int.tmod_lt_of_pos l.sum.toInt hpos
  have hgt := Int.lt_tmod_of_pos l.sum.toInt hpos
  have lo : -2 ^ 23 ≤ Int.tdiv l.sum.toInt t.toNat := by
    by_contra h
    have := mul_le_mul_of_nonneg_left (show Int.tdiv l.sum.toInt t.toNat ≤ -2 ^ 23 - 1 by omega) hpos.le
    rw [mul_sub, mul_one] at this
    omega
  have hi : Int.tdiv l.sum.toInt t.toNat ≤ 2 ^ 23 - 1 := by
    by_contra h
    have := mul_le_mul_of_nonneg_left (show (2 : Int) ^ 23 ≤ Int.tdiv l.sum.toInt t.toNat by omega) hpos.le
    rw [mul_sub, mul_one] at h2
    omega
  have e : (meanWord l.sum t).toInt = Int.tdiv l.sum.toInt t.toNat := by
    unfold meanWord
    rw [BitVec.toInt_ofInt]
    apply Int.bmod_eq_of_le <;> norm_num at * <;> omega
  exact ⟨e, by rw [RawRange, e]; exact ⟨lo, hi⟩⟩

end Sys2Proof.Machine
end

