-- ==== Sys2Proof/Laws/Encoding.lean ====
section
/-! SUPPORT. The fields of a frame and the frame of its fields (30_encoding.md R48). -/

namespace Sys2Proof

@[simp] theorem Frame.op_mk (op : BitVec 4) (a b : Word) : (Frame.mk op a b).op = op := by
  ext i hi
  simp only [Frame.mk, Frame.op, BitVec.getElem_extractLsb', BitVec.getLsbD_append]
  rw [if_neg (by omega), if_neg (by omega), show 64 + i - 32 - 32 = i by omega]
  simp [hi]

@[simp] theorem Frame.a_mk (op : BitVec 4) (a b : Word) : (Frame.mk op a b).a = a := by
  ext i hi
  simp only [Frame.mk, Frame.a, BitVec.getElem_extractLsb', BitVec.getLsbD_append]
  rw [if_neg (by omega)]
  simp [hi]

@[simp] theorem Frame.b_mk (op : BitVec 4) (a b : Word) : (Frame.mk op a b).b = b := by
  ext i hi
  simp only [Frame.mk, Frame.b, BitVec.getElem_extractLsb', BitVec.getLsbD_append]
  simp [hi]

/-- A mask is applied field by field. -/
theorem Frame.mk_and (op op' : BitVec 4) (a a' b b' : Word) :
    Frame.mk op a b &&& Frame.mk op' a' b' = Frame.mk (op &&& op') (a &&& a') (b &&& b') :=
  (BitVec.and_append (x₁ := op ++ a) (x₂ := op' ++ a')).trans (congrArg (· ++ (b &&& b')) BitVec.and_append)

/-- A frame is its three fields: no bit is left over. -/
theorem Frame.mk_fields (f : Frame) : Frame.mk f.op f.a f.b = f := by
  ext i hi
  simp only [Frame.mk, Frame.b, Frame.a, Frame.op, ← BitVec.getLsbD_eq_getElem, BitVec.getLsbD_append,
    BitVec.getLsbD_extractLsb']
  by_cases h1 : i < 32
  · simp [h1]
  · by_cases h2 : i < 64
    · simp [h1, show i - 32 < 32 by omega, show 32 + (i - 32) = i by omega]
    · simp [h1, show i - 32 - 32 < 4 by omega, show ¬ i - 32 < 32 by omega, show 64 + (i - 32 - 32) = i by omega]

@[simp] theorem encode_op (i : Instr) : (encode i).op = i.opcode := Frame.op_mk ..

@[simp] theorem encode_a (i : Instr) : (encode i).a = i.operandA := Frame.a_mk ..

@[simp] theorem encode_b (i : Instr) : (encode i).b = i.operandB := Frame.b_mk ..

end Sys2Proof
end

