-- ==== Sys2Proof/Laws/Run.lean ====
section
/-! SUPPORT. What a step and a run are, said once: a step of a running command is the sequencer's micro-step, and runs
compose. -/

namespace Sys2Proof.Machine

/-- The host's waiting depends on its script only. -/
theorem State.HostWaits.of_host_eq {s t : State} (h : s.HostWaits) (e : t.host = s.host) : t.HostWaits := by
  unfold State.HostWaits State.hostWaits at *
  rwa [e]

/-- While a command runs and the host waits, a step is the next micro-step. -/
theorem step_of_busy {s : State} (hb : s.busy = true) (hw : s.HostWaits) : step s = micro s := by
  unfold State.HostWaits State.hostWaits at hw
  unfold step turn
  split <;> simp_all

/-- A step of an idle block presented with a frame presents that frame. -/
theorem step_of_presents {s : State} {f : Frame} {later : List HostInput} (hb : s.busy = false)
    (hp : s.Presents f later) : step s = present f { s with host := later } := by
  rcases hp with h | h <;> simp [step, turn, h, hb]

/-- A step of an idle block in which reset is asserted begins that reset. -/
theorem step_of_resets {s : State} {r : ResetRequest} {later : List HostInput} (hb : s.busy = false)
    (hr : s.Resets r later) : step s = beginReset r { s with host := later } := by
  rcases hr with h | h <;> simp [step, turn, h, hb]

/-- A frame that decodes is accepted by the command's meaning. -/
theorem present_of_decode {s : State} {f : Frame} {i : Instr} (hb : s.busy = false) (hd : decode f = .ok i) :
    present f s = exec i s := by
  simp [present, hb, hd]

/-- What a step can do: every next state is the sequencer's, a command's, or a reset's. -/
theorem step_cases {s t : State} (h : step s = .next t) :
    micro s = .next t ∨
    (∃ f later i, s.busy = false ∧ s.Presents f later ∧ decode f = .ok i ∧ exec i { s with host := later } = .next t) ∨
    (∃ r later, s.BeginsReset r ∧ s.Resets r later ∧ t = ({ s with host := later } : State).constructed r) := by
  have present_next {f : Frame} {later : List HostInput} (hp : s.Presents f later)
      (h : present f { s with host := later } = .next t) :
      ∃ f later i, s.busy = false ∧ s.Presents f later ∧ decode f = .ok i ∧
        exec i { s with host := later } = .next t := by
    unfold present at h
    split at h
    · cases h
    · split at h
      · cases h
      · exact ⟨f, later, _, by simp_all, hp, by assumption, h⟩
  have reset_next {r : ResetRequest} {later : List HostInput} (hr : s.Resets r later)
      (h : beginReset r { s with host := later } = .next t) :
      ∃ r later, s.BeginsReset r ∧ s.Resets r later ∧ t = ({ s with host := later } : State).constructed r := by
    unfold beginReset at h
    split at h
    · cases h
    · split at h
      · cases h
        exact ⟨r, later, ⟨by simp_all, by assumption, later, hr⟩, hr, rfl⟩
      · cases h
  unfold step turn at h
  split at h
  · exact .inl h
  · rename_i f later hh
    split at h
    · exact .inl h
    · exact .inr (.inl (present_next (.inl hh) h))
  · exact .inr (.inl (present_next (.inr ‹_›) h))
  · rename_i r later hh
    split at h
    · exact .inl h
    · exact .inr (.inr (reset_next (.inl hh) h))
  · exact .inr (.inr (reset_next (.inr ‹_›) h))

/-- An accepted command: the block was idle, and the next state is the latched one with the command's row performed. -/
theorem accept_cases {i : Instr} {start : State → State} {s t : State} (h : accept i start s = .next t) :
    s.busy = false ∧
    t = start
      { s with
        busy := true
        seq := { s.seq with opl := i.opcode, al := i.operandA, bl := i.operandB } } := by
  unfold accept at h
  split at h
  · cases h
  · cases h
    exact ⟨by simp_all, rfl⟩

/-- An idle block accepts. -/
theorem accept_of_idle {i : Instr} {start : State → State} {s : State} (hb : s.busy = false) :
    accept i start s = .next (start
      { s with
        busy := true
        seq := { s.seq with opl := i.opcode, al := i.operandA, bl := i.operandB } }) := by
  simp [accept, hb]

/-! ### Runs -/

@[simp] theorem run_zero (s : State) : run 0 s = .next s := rfl

/-- A run goes on from its first next state. -/
theorem run_succ {s t : State} (k : Nat) (h : step s = .next t) : run (k + 1) s = run k t := by
  simp [run, h]

theorem run_one (s : State) : run 1 s = step s := by
  unfold run
  cases step s <;> rfl

/-- Runs compose. -/
theorem run_add {s t : State} {a : Nat} (b : Nat) (h : run a s = .next t) : run (a + b) s = run b t := by
  induction a generalizing s with
  | zero => cases h; simp
  | succ a ih =>
    unfold run at h
    rw [Nat.succ_add]
    cases hs : step s with
    | next s' => rw [run_succ _ hs]; exact ih (by simpa [hs] using h)
    | fault r => simp [hs] at h
    | refused r => simp [hs] at h

/-- One more step at the end of a run. -/
theorem run_snoc {s t : State} {a : Nat} (h : run a s = .next t) : run (a + 1) s = step t := by
  rw [run_add 1 h, run_one]

/-- One more micro-step at the end of a run, while the command runs and the host waits. -/
theorem run_snoc_micro {s t u : State} {a : Nat} (h : run a s = .next t) (hb : t.busy = true) (hw : t.HostWaits)
    (hm : micro t = .next u) : run (a + 1) s = .next u := by
  rw [run_snoc h, step_of_busy hb hw, hm]

end Sys2Proof.Machine
end

