-- ==== Sys2Proof/Laws/Exec.lean ====
section
/-! SUPPORT. One lemma per command: what its meaning answers on an idle block, as a record update (40_acquisition.md R72,
row `IDLE`), and what every accepted command has in common. -/

namespace Sys2Proof.Machine

theorem exec_readraw {s : State} (hb : s.busy = false) :
    exec .readraw s = .next
      { s with
        busy := true
        seq  := { s.seq with opl := 1, al := 0, bl := 0, smpl := true, phase := .poll } } := by
  simp only [exec, execReadraw, accept_of_idle hb]
  rfl

theorem exec_readrawF {s : State} (hb : s.busy = false) :
    exec .readrawF s = .next
      { s with
        busy := true
        seq  := { s.seq with opl := 1, al := 1, bl := 0, smpl := false, phase := .poll } } := by
  simp only [exec, execReadrawF, accept_of_idle hb]
  rfl

theorem exec_read {s : State} (hb : s.busy = false) :
    exec .read s = .next
      { s with
        busy := true
        seq  := { s.seq with opl := 2, al := 0, bl := 0, smpl := true, phase := .poll } } := by
  simp only [exec, execRead, accept_of_idle hb]
  rfl

theorem exec_readF {s : State} (hb : s.busy = false) :
    exec .readF s = .next
      { s with
        busy := true
        seq  := { s.seq with opl := 2, al := 1, bl := 0, smpl := false, phase := .poll } } := by
  simp only [exec, execReadF, accept_of_idle hb]
  rfl

theorem exec_tare {s : State} {t : Word} (k : Word) (hb : s.busy = false) (ht : t ≠ 0) :
    exec (.tare t k) s = .next
      { s with
        busy := true
        seq  := { s.seq with opl := 3, al := t, bl := k, tc := 0, smpl := true, phase := .poll } } := by
  have h : exec (.tare t k) s =
      accept (.tare t k) (fun s => ({ s with seq := { s.seq with tc := 0 } } : State).startFrame true) s :=
    if_neg fun h => ht h.1
  rw [h, accept_of_idle hb]
  rfl

theorem exec_tare_zero {s : State} (k : Word) (hb : s.busy = false) :
    exec (.tare 0 k) s = .refused .tareZeroSamples :=
  if_pos ⟨rfl, hb⟩

theorem exec_setgain {s : State} (g : Word) (hb : s.busy = false) :
    exec (.setgain g) s = .next
      { s with
        gain := gainAfter g s.gain
        busy := true
        seq  := { s.seq with opl := 4, al := g, bl := 0, smpl := false, phase := .pd0 } } := by
  simp only [exec, execSetgain, accept_of_idle hb]
  rfl

theorem exec_pwrup {s : State} (hb : s.busy = false) :
    exec .pwrup s = .next
      { s with busy := true, seq := { s.seq with opl := 5, al := 0, bl := 0, phase := .pd0 } } := by
  simp only [exec, execPwrup, accept_of_idle hb]
  rfl

theorem exec_pwrdn {s : State} (hb : s.busy = false) :
    exec .pwrdn s = .next
      { s with busy := true, seq := { s.seq with opl := 6, al := 0, bl := 0, phase := .pd0 } } := by
  simp only [exec, execPwrdn, accept_of_idle hb]
  rfl

theorem exec_chcnt {s : State} (hb : s.busy = false) :
    exec .chcnt s = .next
      { s with
        busy := true
        rsp  := BitVec.ofNat 32 s.cfg.n
        seq  := { s.seq with opl := 7, al := 0, bl := 0, phase := .fin } } := by
  simp only [exec, execChcnt, accept_of_idle hb]
  rfl

/-- The pulse count after a selector, case by case (41_gain.md R80, R82). -/
theorem gainAfter_eq (g : Word) (old : BitVec 2) :
    gainAfter g old = if g = 128 then 1 else if g = 64 then 3 else if g = 32 then 2 else old := by
  unfold gainAfter gainOfSelector
  repeat' split
  all_goals rfl

/-- A command is accepted by an idle block only (10_state.md R20). -/
theorem exec_refuses_busy {i : Instr} {s : State} (hb : s.busy = true) :
    exec i s = .refused .commandWhileBusy := by
  cases i <;>
    simp [exec, execReadraw, execReadrawF, execRead, execReadF, execTare, execSetgain, execPwrup, execPwrdn, execChcnt,
      accept, hb]

/-- What a command does to the state when it is accepted: every next state is one of these. -/
theorem exec_cases {i : Instr} {s t : State} (h : exec i s = .next t) :
    s.busy = false ∧
    ((∃ q, i ≠ .chcnt ∧ (∀ g, i ≠ .setgain g) ∧ t = { s with busy := true, seq := q }) ∨
     (∃ q g, i = .setgain g ∧ t = { s with busy := true, gain := gainAfter g s.gain, seq := q }) ∨
     (∃ q, i = .chcnt ∧ t = { s with busy := true, rsp := BitVec.ofNat 32 s.cfg.n, seq := q })) := by
  by_cases hb : s.busy = true
  · rw [exec_refuses_busy hb] at h
    cases h
  · rw [Bool.not_eq_true] at hb
    refine ⟨hb, ?_⟩
    cases i with
    | readraw  => rw [exec_readraw hb] at h; cases h; exact .inl ⟨_, by simp, by simp, rfl⟩
    | readrawF => rw [exec_readrawF hb] at h; cases h; exact .inl ⟨_, by simp, by simp, rfl⟩
    | read     => rw [exec_read hb] at h; cases h; exact .inl ⟨_, by simp, by simp, rfl⟩
    | readF    => rw [exec_readF hb] at h; cases h; exact .inl ⟨_, by simp, by simp, rfl⟩
    | pwrup    => rw [exec_pwrup hb] at h; cases h; exact .inl ⟨_, by simp, by simp, rfl⟩
    | pwrdn    => rw [exec_pwrdn hb] at h; cases h; exact .inl ⟨_, by simp, by simp, rfl⟩
    | chcnt    => rw [exec_chcnt hb] at h; cases h; exact .inr (.inr ⟨_, rfl, rfl⟩)
    | setgain g => rw [exec_setgain g hb] at h; cases h; exact .inr (.inl ⟨_, g, rfl, rfl⟩)
    | tare t k =>
      by_cases ht : t = 0
      · rw [ht, exec_tare_zero k hb] at h; cases h
      · rw [exec_tare k hb ht] at h; cases h; exact .inl ⟨_, by simp, by simp, rfl⟩

end Sys2Proof.Machine
end

