-- ==== Sys2Proof/Laws/PerInstr.lean ====
section
/-! SUPPORT. What holds of every instruction as syntax, one lemma per constructor: the frame the encoder writes is in the
instruction's own row of the opcode map (30_encoding.md R50). -/

namespace Sys2Proof.Laws.EncodesInItsRow

/-- R50: the encoder's frame meets `f & mask = match` of the instruction's row. -/
def Statement (i : Instr) : Prop := i.rowMatches (encode i) = true

theorem readraw : Statement .readraw := by unfold Statement; decide

theorem readrawF : Statement .readrawF := by unfold Statement; decide

theorem read : Statement .read := by unfold Statement; decide

theorem readF : Statement .readF := by unfold Statement; decide

theorem tare (t k : Word) : Statement (.tare t k) := by
  have row : (Instr.tare t k).row = (Frame.mk 3 0 0, Frame.mk 15 0 0) := rfl
  unfold Statement Instr.rowMatches encode
  rw [row, Frame.mk_and]
  simp [Instr.opcode, Instr.operandA, Instr.operandB]

theorem setgain (g : Word) : Statement (.setgain g) := by
  have row : (Instr.setgain g).row = (Frame.mk 4 0 0, Frame.mk 15 0 (BitVec.allOnes 32)) := rfl
  unfold Statement Instr.rowMatches encode
  rw [row, Frame.mk_and]
  simp [Instr.opcode, Instr.operandA, Instr.operandB]

theorem pwrup : Statement .pwrup := by unfold Statement; decide

theorem pwrdn : Statement .pwrdn := by unfold Statement; decide

theorem chcnt : Statement .chcnt := by unfold Statement; decide

end Sys2Proof.Laws.EncodesInItsRow
end

