-- ==== Sys2Proof/Laws/Sequencer.lean ====
section
/-! SUPPORT. One lemma per row of the micro-step table (40_acquisition.md R72): what the row answers, as a record update
of the state, so that no later proof unfolds a micro-step. -/

namespace Sys2Proof.Machine

theorem micro_idle {s : State} (h : s.seq.phase = .idle) : micro s = .next s := by
  simp [micro, h]

theorem micro_poll_ready {s : State} (h : s.seq.phase = .poll) (hr : ready s.din = true) :
    micro s = .next
      { s with
        env   := s.env.advance 1
        trace := s.trace ++ [.smp s.din]
        seq   := { s.seq with k := 0, phase := .dhi } } := by
  simp [micro, h, microPoll, hr, State.sampled]

theorem micro_poll_wait {s : State} (h : s.seq.phase = .poll) (hr : ready s.din = false) :
    micro s = .next { s with env := s.env.advance 1, trace := s.trace ++ [.smp s.din] } := by
  simp [micro, h, microPoll, hr, State.sampled]

theorem micro_dhi {s : State} (h : s.seq.phase = .dhi) :
    micro s = .next
      { s with
        sck   := true
        trace := s.trace ++ [.ck true]
        seq   := { s.seq with phase := if s.seq.smpl then .dsmp else .dlo } } := by
  simp [micro, h, microDhi, State.writeClock, State.goto]

theorem micro_dsmp {s : State} (h : s.seq.phase = .dsmp) (hk : s.seq.k.toNat ≤ 23) :
    micro s = .next
      { s with
        lanes := s.lanes.mapIdx fun i l =>
          { l with acc := writeBit l.acc (23 - s.seq.k.toNat) (Sample.lane s.din i) }
        env   := s.env.advance 1
        trace := s.trace ++ [.smp s.din]
        seq   := { s.seq with phase := .dlo } } := by
  simp [micro, h, microDsmp, Nat.not_lt.mpr hk, State.sampled, State.writeLaneBits, State.goto]

theorem micro_dlo_more {s : State} (h : s.seq.phase = .dlo) (hk : s.seq.k.toNat < 23) :
    micro s = .next
      { s with
        sck   := false
        trace := s.trace ++ [.ck false]
        seq   := { s.seq with k := s.seq.k + 1, phase := .dhi } } := by
  simp [micro, h, microDlo, hk, State.writeClock]

theorem micro_dlo_last {s : State} (h : s.seq.phase = .dlo) (hk : ¬ s.seq.k.toNat < 23) :
    micro s = .next
      { s with
        sck   := false
        trace := s.trace ++ [.ck false]
        seq   := { s.seq with g := 0, phase := .ghi } } := by
  simp [micro, h, microDlo, hk, State.writeClock]

theorem micro_ghi {s : State} (h : s.seq.phase = .ghi) (hg : s.gain ≠ 0) :
    micro s = .next
      { s with sck := true, trace := s.trace ++ [.ck true], seq := { s.seq with phase := .glo } } := by
  simp_all [micro, microGhi, State.writeClock, State.goto]

theorem micro_glo {s : State} (h : s.seq.phase = .glo) :
    micro s = .next
      { s with
        sck   := false
        trace := s.trace ++ [.ck false]
        seq   :=
          { s.seq with
            g     := s.seq.g + 1
            phase := if s.seq.g + 1 < s.gain then .ghi else s.seq.afterGain } } := by
  simp [micro, h, microGlo, State.writeClock]

theorem micro_ext {s : State} (h : s.seq.phase = .ext) :
    micro s = .next
      { s with lanes := s.lanes.map Lane.extend, seq := { s.seq with phase := s.seq.afterExt } } := by
  simp [micro, h, microExt, State.mapLanes, State.goto]

theorem micro_sub {s : State} (h : s.seq.phase = .sub) :
    micro s = .next { s with lanes := s.lanes.map Lane.correct, seq := { s.seq with phase := .fin } } := by
  simp [micro, h, microSub, State.mapLanes, State.goto]

theorem micro_stat {s : State} (h : s.seq.phase = .stat) :
    micro s = .next
      { s with
        lanes := s.lanes.map fun l => l.accumulate (s.seq.tc == 0)
        seq   :=
          { s.seq with
            tc    := s.seq.tc + 1
            phase := if s.seq.tc + 1 < s.seq.al then .poll else .judge } } := by
  simp only [micro, h, microStat]
  rfl

theorem micro_judge_reject {s : State} (h : s.seq.phase = .judge) (ha : s.seq.al ≠ 0)
    (hr : tareRejects s.seq.al s.seq.bl s.lanes = true) :
    micro s = .next { s with rsp := 0, seq := { s.seq with phase := .fin } } := by
  simp_all [micro, microJudge, State.tareCount, State.tareTolerance, verdictWord, State.goto]

theorem micro_judge_commit {s : State} (h : s.seq.phase = .judge) (ha : s.seq.al ≠ 0)
    (hr : tareRejects s.seq.al s.seq.bl s.lanes = false) :
    micro s = .next
      { s with
        lanes := s.lanes.map fun l => l.commit s.seq.al
        rsp   := 1
        seq   := { s.seq with phase := .fin } } := by
  simp_all [micro, microJudge, State.tareCount, State.tareTolerance, verdictWord, State.goto, State.mapLanes]

theorem micro_pd0_pwrdn {s : State} (h : s.seq.phase = .pd0) (ho : s.seq.opl = 6) :
    micro s = .next
      { s with sck := false, trace := s.trace ++ [.ck false], seq := { s.seq with phase := .pd1 } } := by
  simp [micro, h, microPd0, ho, Instr.opcode, State.writeClock, State.goto]

theorem micro_pd0_pwrup {s : State} (h : s.seq.phase = .pd0) (ho : s.seq.opl = 5) :
    micro s = .next
      { s with sck := false, trace := s.trace ++ [.ck false], seq := { s.seq with phase := .fin } } := by
  simp [micro, h, microPd0, ho, Instr.opcode, State.writeClock, State.goto]

theorem micro_pd0_setgain {s : State} (h : s.seq.phase = .pd0) (ho : s.seq.opl = 4) :
    micro s = .next
      { s with sck := false, trace := s.trace ++ [.ck false], seq := { s.seq with phase := .poll } } := by
  simp [micro, h, microPd0, ho, Instr.opcode, State.writeClock, State.goto]

theorem micro_pd1 {s : State} (h : s.seq.phase = .pd1) :
    micro s = .next
      { s with sck := true, trace := s.trace ++ [.ck true], seq := { s.seq with phase := .fin } } := by
  simp [micro, h, microPd1, State.writeClock, State.goto]

theorem micro_fin {s : State} (h : s.seq.phase = .fin) :
    micro s = .next { s with busy := false, seq := { s.seq with phase := .idle } } := by
  simp [micro, h, microFin, State.goto]

/-- What a micro-step can do: every next state of the sequencer is one of these (R72). -/
theorem micro_cases {s t : State} (h : micro s = .next t) :
    (s.seq.phase = .idle ∧ t = s) ∨
    (s.seq.phase = .poll ∧ ready s.din = true ∧ t =
      { s with
        env   := s.env.advance 1
        trace := s.trace ++ [.smp s.din]
        seq   := { s.seq with k := 0, phase := .dhi } }) ∨
    (s.seq.phase = .poll ∧ ready s.din = false ∧ t =
      { s with env := s.env.advance 1, trace := s.trace ++ [.smp s.din] }) ∨
    (s.seq.phase = .dhi ∧ t =
      { s with
        sck   := true
        trace := s.trace ++ [.ck true]
        seq   := { s.seq with phase := if s.seq.smpl then .dsmp else .dlo } }) ∨
    (s.seq.phase = .dsmp ∧ s.seq.k.toNat ≤ 23 ∧ t =
      { s with
        lanes := s.lanes.mapIdx fun i l =>
          { l with acc := writeBit l.acc (23 - s.seq.k.toNat) (Sample.lane s.din i) }
        env   := s.env.advance 1
        trace := s.trace ++ [.smp s.din]
        seq   := { s.seq with phase := .dlo } }) ∨
    (s.seq.phase = .dlo ∧ s.seq.k.toNat < 23 ∧ t =
      { s with
        sck   := false
        trace := s.trace ++ [.ck false]
        seq   := { s.seq with k := s.seq.k + 1, phase := .dhi } }) ∨
    (s.seq.phase = .dlo ∧ ¬ s.seq.k.toNat < 23 ∧ t =
      { s with
        sck   := false
        trace := s.trace ++ [.ck false]
        seq   := { s.seq with g := 0, phase := .ghi } }) ∨
    (s.seq.phase = .ghi ∧ s.gain ≠ 0 ∧ t =
      { s with sck := true, trace := s.trace ++ [.ck true], seq := { s.seq with phase := .glo } }) ∨
    (s.seq.phase = .glo ∧ t =
      { s with
        sck   := false
        trace := s.trace ++ [.ck false]
        seq   :=
          { s.seq with
            g     := s.seq.g + 1
            phase := if s.seq.g + 1 < s.gain then .ghi else s.seq.afterGain } }) ∨
    (s.seq.phase = .ext ∧ t =
      { s with lanes := s.lanes.map Lane.extend, seq := { s.seq with phase := s.seq.afterExt } }) ∨
    (s.seq.phase = .sub ∧ t =
      { s with lanes := s.lanes.map Lane.correct, seq := { s.seq with phase := .fin } }) ∨
    (s.seq.phase = .stat ∧ t =
      { s with
        lanes := s.lanes.map fun l => l.accumulate (s.seq.tc == 0)
        seq   :=
          { s.seq with
            tc    := s.seq.tc + 1
            phase := if s.seq.tc + 1 < s.seq.al then .poll else .judge } }) ∨
    (s.seq.phase = .judge ∧ s.seq.al ≠ 0 ∧ tareRejects s.seq.al s.seq.bl s.lanes = true ∧ t =
      { s with rsp := 0, seq := { s.seq with phase := .fin } }) ∨
    (s.seq.phase = .judge ∧ s.seq.al ≠ 0 ∧ tareRejects s.seq.al s.seq.bl s.lanes = false ∧ t =
      { s with
        lanes := s.lanes.map fun l => l.commit s.seq.al
        rsp   := 1
        seq   := { s.seq with phase := .fin } }) ∨
    (∃ p, s.seq.phase = .pd0 ∧
      ((s.seq.opl = 6 ∧ p = .pd1) ∨ (s.seq.opl = 5 ∧ p = .fin) ∨ (s.seq.opl = 4 ∧ p = .poll)) ∧ t =
      { s with sck := false, trace := s.trace ++ [.ck false], seq := { s.seq with phase := p } }) ∨
    (s.seq.phase = .pd1 ∧ t =
      { s with sck := true, trace := s.trace ++ [.ck true], seq := { s.seq with phase := .fin } }) ∨
    (s.seq.phase = .fin ∧ t = { s with busy := false, seq := { s.seq with phase := .idle } }) := by
  cases hp : s.seq.phase with
  | idle => rw [micro_idle hp] at h; cases h; simp
  | poll =>
    cases hr : ready s.din with
    | true => rw [micro_poll_ready hp hr] at h; cases h; simp
    | false => rw [micro_poll_wait hp hr] at h; cases h; simp
  | dhi => rw [micro_dhi hp] at h; cases h; simp
  | dsmp =>
    by_cases hk : s.seq.k.toNat ≤ 23
    · rw [micro_dsmp hp hk] at h; cases h; simp [hk]
    · simp [micro, hp, microDsmp, Nat.lt_of_not_le hk] at h
  | dlo =>
    by_cases hk : s.seq.k.toNat < 23
    · rw [micro_dlo_more hp hk] at h; cases h; simp [hk]
    · rw [micro_dlo_last hp hk] at h; cases h; simp [hk]
  | ghi =>
    by_cases hg : s.gain = 0
    · simp [micro, hp, microGhi, hg] at h
    · rw [micro_ghi hp hg] at h; cases h; simp; exact hg
  | glo => rw [micro_glo hp] at h; cases h; simp
  | ext => rw [micro_ext hp] at h; cases h; simp
  | sub => rw [micro_sub hp] at h; cases h; simp
  | stat => rw [micro_stat hp] at h; cases h; simp
  | judge =>
    by_cases ha : s.seq.al = 0
    · simp [micro, hp, microJudge, State.tareCount, ha] at h
    · cases hr : tareRejects s.seq.al s.seq.bl s.lanes with
      | true => rw [micro_judge_reject hp ha hr] at h; cases h; simp; exact ha
      | false => rw [micro_judge_commit hp ha hr] at h; cases h; simp; exact ha
  | pd0 =>
    by_cases h6 : s.seq.opl = 6
    · rw [micro_pd0_pwrdn hp h6] at h; cases h; simp [h6]
    · by_cases h5 : s.seq.opl = 5
      · rw [micro_pd0_pwrup hp h5] at h; cases h; simp [h5]
      · by_cases h4 : s.seq.opl = 4
        · rw [micro_pd0_setgain hp h4] at h; cases h; simp [h4]
        · simp_all [micro, microPd0, Instr.opcode]
  | pd1 => rw [micro_pd1 hp] at h; cases h; simp
  | fin => rw [micro_fin hp] at h; cases h; simp

end Sys2Proof.Machine
end

