-- ==== Sys2Proof/Tests/Slice0.lean ====
section
/-! SUPPORT. The model's own tests: ill-formed terms that WellFormed refuses, frames written out from the opcode map,
single steps with results taken from 95_test_vectors.md, and a witness for the hypotheses of every statement. -/

namespace Sys2Proof.Tests

open Sys2Proof Sys2Proof.Machine

/-! ### Helpers -/

/-- A field of the next state of an outcome; none at a stop. -/
def nextField {α : Type} (f : State → α) : Host.Outcome State Fault Refusal → Option α
  | .next t    => some (f t)
  | .fault _   => none
  | .refused _ => none

/-- The refusal of an outcome. -/
def refusalOf : Host.Outcome State Fault Refusal → Option Refusal
  | .refused r => some r
  | .next _ | .fault _ => none

/-- The fault of an outcome. -/
def faultOf : Host.Outcome State Fault Refusal → Option Fault
  | .fault r => some r
  | .next _ | .refused _ => none

/-- One channel, offset 7, stale bits in `ACC`, idle, as the vectors of 95_test_vectors.md part 2 start. -/
def bench : State :=
  { State.reset with
    cfg   := { n := 1, dpin := [1], cpin := 0 }
    lanes := [{ acc := 0xDEADBEEF, offset := 7, min := 0, max := 0, sum := 0 }] }

/-- The bench with a command running, in the given phase. -/
def busyIn (p : Phase) (opl : BitVec 4) : State :=
  { bench with busy := true, seq := { bench.seq with phase := p, opl := opl } }

/-- The bench whose one lane is `l`, with a command running, in the given phase. -/
def laneIn (p : Phase) (opl : BitVec 4) (l : Lane) : State :=
  { busyIn p opl with lanes := [l] }

/-- The bench in `JUDGE` of TARE `t, k` with the given statistics. -/
def judging (t k : Word) (lo hi : Word) (sum : WideSum) : State :=
  let s := laneIn .judge 3 { acc := hi, offset := 7, min := lo, max := hi, sum := sum }
  { s with seq := { s.seq with tc := t, al := t, bl := k } }

/-- The first register of the only lane. -/
def acc0 (s : State) : Option Word := s.lanes.head?.map Lane.acc

/-- The offset of the only lane. -/
def offset0 (s : State) : Option Word := s.lanes.head?.map Lane.offset

/-- The bench with a frame presented. -/
def presenting (f : Frame) : State := { bench with host := [.frameNow f] }

/-- A reset request with every unspecified register at rest. -/
def request (c : Config) : ResetRequest :=
  { cfg := c, junk := { lanes := [], rsp := 0, seq := Seq.atRest } }

/-- The one-channel data answers that send the field `x`, most significant bit first (20_memory.md R38). -/
def sending (x : BitVec 24) : List Sample := (List.range 24).map fun k => [x.getMsbD k]

/-- A one-channel frame input, ready at once. -/
def sampling (x : BitVec 24) : FrameInput := { polls := [], data := sending x }

/-- A one-channel flush frame with one poll that is not ready. -/
def flushing : FrameInput := { polls := [[true]], data := [] }

/-- The bench with ENV's next answers given. -/
def hearing (answers : List Sample) : State := { bench with env := { script := answers, count := 0 } }

/-- A state whose script is `answers` hears them. -/
theorem hears_script {s : State} {answers : List Sample} (hs : s.env.script = answers)
    (hl : ∀ v ∈ answers, v.length = s.cfg.n) : s.Hears answers := by
  intro j hj
  unfold State.answer
  apply List.ext_getElem
  · simp [hs, hl _ (List.getElem_mem hj), hj]
  · intro i _ hi
    simp [hs, hj] at hi ⊢
    simp [hi]

/-! ### WellFormed refuses -/

theorem test_wf_default : Config.default.wellFormed = true := by decide

theorem test_wf_no_channels : ({ n := 0, dpin := [], cpin := 0 } : Config).channelsOk = false := by decide

theorem test_wf_too_many_channels : ({ n := 2 ^ 32, dpin := [], cpin := 0 } : Config).channelsOk = false := by decide

theorem test_wf_missing_pin : ({ n := 2, dpin := [1], cpin := 0 } : Config).channelsOk = false := by decide

theorem test_wf_clock_is_data : ({ n := 1, dpin := [0], cpin := 0 } : Config).pinsDistinct = false := by decide

theorem test_wf_same_data_pin : ({ n := 2, dpin := [1, 1], cpin := 0 } : Config).pinsDistinct = false := by decide

theorem test_wf_gain_100 : ({ n := 1, dpin := [1], cpin := 0, initGain := 100 } : Config).gainOk = false := by decide

theorem test_wf_tare_zero : (Instr.tare 0 5).wellFormed = false := by decide

/-! ### Decoding, from 95_test_vectors.md 2.5 and 30_encoding.md R50 -/

theorem test_decode_readraw : decode 0x10000000000000000 = .ok .readraw := by decide

theorem test_decode_readrawF : decode 0x10000000100000000 = .ok .readrawF := by decide

theorem test_decode_read : decode 0x20000000000000000 = .ok .read := by decide

theorem test_decode_readF : decode 0x20000000100000000 = .ok .readF := by decide

theorem test_decode_tare : decode 0x30000000100000000 = .ok (.tare 1 0) := by decide

theorem test_decode_tare_greatest : decode 0x3FFFFFFFFFFFFFFFF = .ok (.tare 4294967295 4294967295) := by decide

theorem test_decode_tare_zero : decode 0x30000000000000005 = .ok (.tare 0 5) := by decide

theorem test_decode_setgain : decode 0x40000004000000000 = .ok (.setgain 64) := by decide

theorem test_decode_setgain_invalid : decode 0x40000018000000000 = .ok (.setgain 384) := by decide

theorem test_decode_pwrup : decode 0x50000000000000000 = .ok .pwrup := by decide

theorem test_decode_pwrdn : decode 0x60000000000000000 = .ok .pwrdn := by decide

theorem test_decode_chcnt : decode 0x70000000000000000 = .ok .chcnt := by decide

theorem test_decode_op0 : decode 0x00000000000000000 = .error .reservedOpcode := by decide

theorem test_decode_op8 : decode 0x80000000000000000 = .error .reservedOpcode := by decide

theorem test_decode_opF : decode 0xF0000000000000000 = .error .reservedOpcode := by decide

theorem test_decode_readraw_a2 : decode 0x10000000200000000 = .error .operandA := by decide

theorem test_decode_readraw_b : decode 0x10000000000000001 = .error .operandB := by decide

theorem test_decode_setgain_b : decode 0x40000008000000001 = .error .operandB := by decide

theorem test_decode_pwrup_b : decode 0x50000000000000001 = .error .operandB := by decide

theorem test_decode_chcnt_a : decode 0x70000000100000000 = .error .operandA := by decide

/-- A word written out bit by bit: `OP = 0100`, `A = 64`, `B = 0` (R48, R49). -/
theorem test_decode_bits_setgain :
    decode (0b0100#4 ++ 0b00000000000000000000000001000000#32 ++ 0b00000000000000000000000000000000#32) =
      .ok (.setgain 64) := by decide

theorem test_table_word : decodeTableWord 72 0x60000000000000000 = some .pwrdn := by decide

theorem test_table_word_reserved : decodeTableWord 72 0x80000000000000000 = none := by decide

theorem test_fetch_word :
    nextField (fun t => (t.seq.phase, t.rsp)) (step (State.reset.withFetchWord 72 0x70000000000000000)) =
      some (.fin, 4) := by decide

/-! ### Single steps, from 95_test_vectors.md part 2 -/

/-- 40_acquisition.md R72, `IDLE`. -/
theorem test_readraw_accepted :
    nextField (fun t => (t.busy, t.seq.phase, t.seq.smpl)) (step (presenting 0x10000000000000000)) =
      some (true, .poll, true) := by decide

/-- V-A5: a line stuck HIGH keeps the block in `POLL`. -/
theorem test_readraw_poll_waits :
    nextField (fun t => (t.seq.phase, t.trace)) (step { busyIn .poll 1 with env := { script := [[true]], count := 0 } }) =
      some (.poll, [.smp [true]]) := by decide

theorem test_readrawF_accepted :
    nextField (fun t => (t.busy, t.seq.phase, t.seq.smpl)) (step (presenting 0x10000000100000000)) =
      some (true, .poll, false) := by decide

/-- V-A3: `CK(1)` with no sample. -/
theorem test_readrawF_takes_no_sample :
    nextField (fun t => (t.seq.phase, t.sck, t.trace)) (step (busyIn .dhi 1)) =
      some (.dlo, true, [.ck true]) := by decide

/-- V-A1: data pulse 0 writes bit 23. -/
theorem test_readraw_first_bit :
    nextField acc0 (step { laneIn .dsmp 1 { Lane.zero with acc := 0 } with env := { script := [[true]], count := 0 } }) =
      some (some 0x00800000) := by decide

/-- V-S: field 0xABCDEF under stale bits 0x12. -/
theorem test_sign_extension_negative :
    nextField acc0 (step (laneIn .ext 1 { Lane.zero with acc := 0x12ABCDEF })) =
      some (some 0xFFABCDEF) := by decide

/-- V-S: field 0x123456 under stale bits 0xFF. -/
theorem test_sign_extension_positive :
    nextField acc0 (step (laneIn .ext 1 { Lane.zero with acc := 0xFF123456 })) =
      some (some 0x00123456) := by decide

/-- V-R: -8388608 - 8388607 = -16777215. -/
theorem test_read_least :
    nextField acc0 (step (laneIn .sub 2 { Lane.zero with acc := 0xFF800000, offset := 8388607 })) =
      some (some 0xFF000001) := by decide

theorem test_read_subtracts_after_extension :
    nextField (fun t => t.seq.phase) (step (busyIn .ext 2)) =
      some .sub := by decide

theorem test_readF_accepted :
    nextField (fun t => (t.busy, t.seq.phase, t.seq.smpl)) (step (presenting 0x20000000100000000)) =
      some (true, .poll, false) := by decide

theorem test_readF_subtracts_nothing :
    nextField (fun t => (t.seq.phase, acc0 t)) (step { busyIn .glo 2 with sck := true }) =
      some (.fin, some 0xDEADBEEF) := by decide

/-- V-T5: the mean of -1 and -2 is -1. -/
theorem test_tare_toward_zero :
    nextField (fun t => (t.rsp, offset0 t)) (step (judging 2 5 (-2) (-1) (-3))) =
      some (1, some (-1)) := by decide

/-- V-T2: a spread of K + 1. -/
theorem test_tare_rejected :
    nextField (fun t => (t.rsp, offset0 t)) (step (judging 2 10 100 111 211)) =
      some (0, some 7) := by decide

/-- V-G2. -/
theorem test_setgain_64 :
    nextField (fun t => t.gain) (step (presenting 0x40000004000000000)) =
      some 3 := by decide

/-- V-G6: the whole operand is compared. -/
theorem test_setgain_384 :
    nextField (fun t => t.gain) (step { presenting 0x40000018000000000 with gain := 2 }) =
      some 2 := by decide

/-- V-P2. -/
theorem test_pwrup_low :
    nextField (fun t => (t.sck, t.trace, t.seq.phase)) (step { busyIn .pd0 5 with sck := true }) =
      some (false, [.ck false], .fin) := by decide

/-- V-P1. -/
theorem test_pwrdn_high :
    nextField (fun t => (t.sck, t.trace, t.seq.phase)) (step (busyIn .pd1 6)) =
      some (true, [.ck true], .fin) := by decide

/-- V-P5. -/
theorem test_chcnt :
    nextField (fun t => (t.rsp, t.trace, t.seq.phase)) (step { State.reset with host := [.frameNow 0x70000000000000000] }) =
      some (4, [], .fin) := by decide

/-- V-X2. -/
theorem test_reset_first_write :
    nextField (fun t => (t.sck, t.trace, t.gain, t.seq.phase))
      (step { bench with host := [.resetNow (request { n := 1, dpin := [1], cpin := 0, initGain := 32 })] }) =
      some (false, [.ck false], 2, .pd0) := by decide

/-- 30_encoding.md R56: FLUSH is READRAW.F. -/
theorem test_assembler_flush :
    AsmLine.flush.input =
      .frameWhenIdle 0x10000000100000000 := by decide

/-- 30_encoding.md R56: the default selector is 128. -/
theorem test_assembler_reset_default :
    (AsmLine.reset 1 [1] 0 none (request bench.cfg).junk).input =
      .resetWhenIdle (request bench.cfg) := by decide

/-- 70_reset_and_hazards.md R140. -/
theorem test_host_reads_nothing_while_busy :
    ((busyIn .poll 1).hostAcc, (busyIn .poll 1).hostRsp) =
      (none, none) := by decide

/-! ### Stops, from 60_exceptions.md R119 -/

/-- Program P5. -/
theorem test_refuses_reserved : refusalOf (step (presenting 0x10000000200000000)) =
    some (.illegalCommand .operandA) := by decide

/-- V-T15. -/
theorem test_refuses_tare_zero : refusalOf (step (presenting 0x30000000000000005)) =
    some .tareZeroSamples := by decide

theorem test_refuses_while_busy : refusalOf (step { busyIn .poll 1 with host := [.frameNow 0x70000000000000000] }) =
    some .commandWhileBusy := by decide

theorem test_refuses_reset_while_busy : refusalOf (step { busyIn .poll 1 with host := [.resetNow (request Config.default)] }) =
    some .resetWhileBusy := by decide

/-- V-X5. -/
theorem test_refuses_no_channels : refusalOf (step { bench with host := [.resetNow (request { n := 0, dpin := [], cpin := 0 })] }) =
    some .badConfiguration := by decide

/-- V-X5. -/
theorem test_refuses_gain_100 : refusalOf (step { bench with host := [.resetNow (request { n := 1, dpin := [1], cpin := 0, initGain := 100 })] }) =
    some .badConfiguration := by decide

theorem test_fault_pulse_index : faultOf (step { busyIn .dsmp 1 with seq := { (busyIn .dsmp 1).seq with k := 24 } }) = some .pulseIndexOutOfRange := by decide

theorem test_fault_gain_zero : faultOf (step { busyIn .ghi 1 with gain := 0 }) = some .gainNotDefined := by decide

theorem test_fault_no_micro_step : faultOf (step (busyIn .pd0 1)) = some .noSuchMicroStep := by decide

theorem test_fault_no_samples : faultOf (step (judging 0 0 0 0 0)) = some .meanOfNoSamples := by decide

/-! ### Witnesses: the hypotheses of each statement are met together -/

theorem witness_EncodeInvertsDecode :
    decode 0x3000000020000000A = .ok (.tare 2 10) := by decide

theorem witness_FrameIsOfARowExactlyWhenItMatches :
    Instr.readF.rowMatches 0x20000000100000000 = true ∧ Instr.readF.rowMatches 0x20000000100000000 = true := by decide

theorem witness_ReservedFramesAreTheseAndAreRefused :
    bench.busy = false ∧ (presenting 0xF0000000000000000).Presents 0xF0000000000000000 [] ∧
      decode 0xF0000000000000000 = .error .reservedOpcode := by decide

theorem witness_StepAcceptsTheDecodedCommand :
    (presenting 0x40000004000000000).busy = false ∧
      (presenting 0x40000004000000000).Presents 0x40000004000000000 [] ∧
      decode 0x40000004000000000 = .ok (.setgain 64) := by decide

theorem witness_IdleBlockAcceptsEveryCommand :
    bench.busy = false ∧ ∀ k, Instr.tare 1 0 ≠ .tare 0 k := ⟨by decide, by simp⟩

theorem witness_StepRunsTheSequencerWhileBusy :
    ((busyIn .poll 1).busy = true ∧ (busyIn .poll 1).HostWaits) ∧ bench.Idle ∧ bench.host = [] := by decide

theorem witness_RunningCommandIgnoresTheWaitingHost :
    (busyIn .poll 1).busy = true ∧ (busyIn .poll 1).HostWaits ∧
      ({ busyIn .poll 1 with host := [.frameWhenIdle 0x70000000000000000] } : State).HostWaits := by decide

/-- The other reasons are the tests `test_refuses_*`. -/
theorem witness_RefusalsAreExactlyThese :
    refusalOf (step { bench with host := [.resetWhenIdle (request { n := 1, dpin := [0], cpin := 0 })] }) =
      some .badConfiguration := by decide

theorem witness_TareOfZeroSamplesIsRefused :
    bench.busy = false ∧ (presenting (encode (.tare 0 5))).Presents (encode (.tare 0 5)) [] := by decide

theorem witness_ReadinessWaitEndsAtFirstAllLowSample :
    ∃ s : State, s.busy = true ∧ s.HostWaits ∧ s.seq.phase = .poll ∧
      (∀ j, j < 1 → ready (s.answer j) = false) ∧ ready (s.answer 1) = true :=
  ⟨{ busyIn .poll 1 with env := { script := [[true], [false]], count := 0 } }, by decide⟩

theorem witness_ReadinessWaitEndsAtFirstAllLowSample_at_once :
    ∃ s : State, s.busy = true ∧ s.HostWaits ∧ s.seq.phase = .poll ∧
      (∀ j, j < 0 → ready (s.answer j) = false) ∧ ready (s.answer 0) = true :=
  ⟨{ busyIn .poll 1 with env := { script := [[false]], count := 0 } }, by decide⟩

theorem witness_ReadinessWaitHasNoBound :
    ∃ s : State, s.busy = true ∧ s.HostWaits ∧ s.seq.phase = .poll ∧
      ∀ j, j < 2 → ready (s.answer j) = false :=
  ⟨{ busyIn .poll 1 with env := { script := [[true], [true]], count := 0 } }, by decide⟩

theorem witness_NeverReadyNeverCompletes :
    ∃ s t : State, s.Idle ∧ s.HostWaits ∧ (∀ j, j < 2 → ready (s.answer j) = false) ∧
      (Instr.setgain 64 ≠ .pwrup ∧ Instr.setgain 64 ≠ .pwrdn ∧ Instr.setgain 64 ≠ .chcnt) ∧ exec (.setgain 64) s = .next t :=
  ⟨hearing [[true], [true]], _, by decide, by decide, by decide, by decide, rfl⟩

theorem witness_NeverReadyNeverCompletes_reset :
    ∃ (s t : State) (r : ResetRequest), s.BeginsReset r ∧ s.Resets r [] ∧ ({ s with host := [] } : State).HostWaits ∧
      (∀ j, j < 2 → ready (({ s with cfg := r.cfg } : State).answer j) = false) ∧ step s = .next t :=
  ⟨{ hearing [[true], [true]] with host := [.resetNow (request bench.cfg)] }, _, request bench.cfg,
    ⟨by decide, by decide, [], .inr rfl⟩, .inr rfl, by decide, by decide, rfl⟩

theorem witness_ShiftInWritesTheFieldAndNothingElse :
    ∃ s t : State, (s.busy = true ∧ s.HostWaits ∧ s.seq.phase = .dhi ∧ s.seq.k = 0 ∧ s.seq.smpl = true) ∧
      t.busy = true ∧ t.HostWaits ∧ t.seq.phase = .dhi ∧ t.seq.k = 0 ∧ t.seq.smpl = false :=
  ⟨{ busyIn .dhi 1 with seq := { (busyIn .dhi 1).seq with smpl := true } }, busyIn .dhi 1, by decide⟩

theorem witness_GainPulsesAreExactlyGain :
    ∃ s t : State, (s.busy = true ∧ s.HostWaits ∧ s.seq.phase = .ghi ∧ s.seq.g = 0 ∧ s.gain ≠ 0 ∧ s.gain = 1) ∧
      t.busy = true ∧ t.HostWaits ∧ t.seq.phase = .ghi ∧ t.seq.g = 0 ∧ t.gain ≠ 0 ∧ t.gain = 3 :=
  ⟨busyIn .ghi 1, { busyIn .ghi 1 with gain := 3 }, by decide⟩

theorem witness_SignExtensionIsByTheTwoMasks :
    (busyIn .ext 1).busy = true ∧ (busyIn .ext 1).HostWaits ∧ (busyIn .ext 1).seq.phase = .ext := by decide

theorem witness_ReconstructionIgnoresStaleBits :
    ∃ d e : List Sample, (d.length = 24 ∧ fieldSum d 0 = 2 ^ 23 - 1) ∧ e.length = 24 ∧ fieldSum e 0 = 2 ^ 23 :=
  ⟨sending 0x7FFFFF, sending 0x800000, by decide⟩

theorem witness_EveryFrameHas24PlusGainPulses :
    (sampling 0xFFFFCE).wellFormed 1 true = true := by decide

theorem witness_ReadrawPerformsOneSamplingFrame :
    ∃ (s : State) (inp : FrameInput), s.Idle ∧ s.HostWaits ∧ s.gain ≠ 0 ∧
      inp.wellFormed s.cfg.n true = true ∧ s.Hears (inp.answers s.cfg.n) :=
  ⟨hearing ((sampling 0xFFFFCE).answers 1), sampling 0xFFFFCE, by decide, by decide, by decide, by decide,
    hears_script rfl (by decide)⟩

theorem witness_ReadrawFPerformsOneFlushFrame :
    ∃ (s : State) (inp : FrameInput), s.Idle ∧ s.HostWaits ∧ s.gain ≠ 0 ∧
      inp.wellFormed s.cfg.n false = true ∧ s.Hears (inp.answers s.cfg.n) :=
  ⟨hearing ((flushing).answers 1), flushing, by decide, by decide, by decide, by decide,
    hears_script rfl (by decide)⟩

theorem witness_SetgainSetsTheModeAndFlushes :
    ∃ (s : State) (g : Word) (gain : BitVec 2) (inp : FrameInput), s.Idle ∧ s.HostWaits ∧ s.gain ≠ 0 ∧
      gain = (if g = 128 then 1 else if g = 64 then 3 else if g = 32 then 2 else s.gain) ∧
      inp.wellFormed s.cfg.n false = true ∧ s.Hears (inp.answers s.cfg.n) :=
  ⟨hearing (flushing.answers 1), 64, 3, flushing, by decide, by decide, by decide, by decide, by decide,
    hears_script rfl (by decide)⟩

theorem witness_SetgainSetsTheModeAndFlushes_invalid :
    ∃ (s : State) (g : Word) (gain : BitVec 2) (inp : FrameInput), s.Idle ∧ s.HostWaits ∧ s.gain ≠ 0 ∧
      gain = (if g = 128 then 1 else if g = 64 then 3 else if g = 32 then 2 else s.gain) ∧
      inp.wellFormed s.cfg.n false = true ∧ s.Hears (inp.answers s.cfg.n) :=
  ⟨hearing (flushing.answers 1), 7, 1, flushing, by decide, by decide, by decide, by decide, by decide,
    hears_script rfl (by decide)⟩

theorem witness_PwrdnDrivesLowThenHigh :
    bench.Idle ∧ bench.HostWaits := by decide

theorem witness_PwrupDrivesLow :
    ({ bench with sck := true } : State).Idle ∧ ({ bench with sck := true } : State).HostWaits := by decide

theorem witness_ChcntAnswersTheChannelCount :
    State.reset.Idle ∧ State.reset.HostWaits ∧ State.reset.cfg.wellFormed = true := by decide

theorem witness_ReadSubtractsTheOffsets :
    ∃ (s : State) (inp : FrameInput), s.Idle ∧ s.HostWaits ∧ s.gain ≠ 0 ∧
      inp.wellFormed s.cfg.n true = true ∧ s.Hears (inp.answers s.cfg.n) :=
  ⟨hearing ((sampling 0x000064).answers 1), sampling 0x000064, by decide, by decide, by decide, by decide,
    hears_script rfl (by decide)⟩

/-- The bench meets the invariant. -/
theorem bench_inv : bench.Inv :=
  ⟨by decide, by decide, by decide, by decide, by decide, by decide, by decide, by decide, by decide⟩

theorem witness_ReadSubtractionNeverWraps :
    bench.Inv ∧ ∃ l, l ∈ bench.lanes := ⟨bench_inv, _, List.mem_cons_self ..⟩

theorem witness_ReadFIsAPlainFlush :
    ∃ (s : State) (inp : FrameInput), s.Idle ∧ s.HostWaits ∧ s.gain ≠ 0 ∧
      inp.wellFormed s.cfg.n false = true ∧ s.Hears (inp.answers s.cfg.n) :=
  ⟨hearing ((flushing).answers 1), flushing, by decide, by decide, by decide, by decide,
    hears_script rfl (by decide)⟩

theorem witness_TareCommitsTheMeansOrRejects :
    ∃ (s : State) (t : Word) (frames : List FrameInput), s.Idle ∧ s.HostWaits ∧ s.gain ≠ 0 ∧
      s.lanes.length = s.cfg.n ∧ t ≠ 0 ∧ frames.length = t.toNat ∧
      (∀ inp ∈ frames, inp.wellFormed s.cfg.n true = true) ∧ s.Hears (tareAnswers s.cfg.n frames) :=
  ⟨hearing (tareAnswers 1 [sampling 0x000064, sampling 0x00006E]), 2, [sampling 0x000064, sampling 0x00006E],
    by decide, by decide, by decide, by decide, by decide, by decide, by decide, hears_script rfl (by decide)⟩

/-- The bench in `STAT` of TARE 2, 10, before its first sample is recorded. -/
def firstStat : State :=
  let s := laneIn .stat 3 { acc := 100, offset := 7, min := 0, max := 0, sum := 0 }
  { s with seq := { s.seq with smpl := true, al := 2, bl := 10 } }

/-- The bench in `STAT` of TARE 2, 10, before its second and last sample is recorded. -/
def secondStat : State :=
  let s := laneIn .stat 3 { acc := 110, offset := 7, min := 100, max := 100, sum := 100 }
  { s with seq := { s.seq with smpl := true, al := 2, bl := 10, tc := 1 } }

theorem firstStat_inv : firstStat.Inv :=
  ⟨by decide, by decide, by decide, by decide, by decide, by decide, by decide, by decide, by decide⟩

theorem secondStat_inv : secondStat.Inv :=
  ⟨by decide, by decide, by decide, by decide, by decide, by decide, by decide, by decide, by decide⟩

theorem witness_StatisticsAreExact :
    (firstStat.Inv ∧ firstStat.HostWaits ∧ firstStat.seq.phase = .stat ∧ firstStat.seq.tc = 0) ∧
      secondStat.Inv ∧ secondStat.HostWaits ∧ secondStat.seq.phase = .stat ∧ secondStat.seq.tc ≠ 0 :=
  ⟨⟨firstStat_inv, by decide⟩, secondStat_inv, by decide⟩

/-- V-T2 and V-T1: the spread is K + 1 and K. -/
theorem witness_JudgeCommitsAllOffsetsOrNone :
    ∃ s t : State,
      (s.busy = true ∧ s.HostWaits ∧ s.seq.phase = .judge ∧ s.seq.al ≠ 0 ∧
        s.seq.bl ≠ 0 ∧ 1 < s.seq.al.toNat ∧ ∃ l ∈ s.lanes, (s.seq.bl.toNat : Int) < l.max.toInt - l.min.toInt) ∧
      t.busy = true ∧ t.HostWaits ∧ t.seq.phase = .judge ∧ t.seq.al ≠ 0 ∧
        ¬ (t.seq.bl ≠ 0 ∧ 1 < t.seq.al.toNat ∧ ∃ l ∈ t.lanes, (t.seq.bl.toNat : Int) < l.max.toInt - l.min.toInt) :=
  ⟨judging 2 10 100 111 211, judging 2 10 100 110 210, by decide⟩

/-- V-T1: the spread is exactly K. -/
theorem witness_SpreadOfKIsAcceptedAndOfKPlusOneRejected :
    ∃ (s : State) (t k : Word) (frames : List FrameInput), s.Idle ∧ s.HostWaits ∧ s.gain ≠ 0 ∧
      s.lanes.length = s.cfg.n ∧ 1 < t.toNat ∧ k ≠ 0 ∧ frames.length = t.toNat ∧
      (∀ inp ∈ frames, inp.wellFormed s.cfg.n true = true) ∧ s.Hears (tareAnswers s.cfg.n frames) ∧
      ∀ i, i < s.cfg.n → ∀ x ∈ tareSamples frames i, ∀ y ∈ tareSamples frames i, x - y ≤ k.toNat :=
  ⟨hearing (tareAnswers 1 [sampling 0x000064, sampling 0x00006E]), 2, 10, [sampling 0x000064, sampling 0x00006E],
    by decide, by decide, by decide, by decide, by decide, by decide, by decide, by decide, hears_script rfl (by decide), by decide⟩

/-- V-T2: the spread is K + 1. -/
theorem witness_SpreadOfKIsAcceptedAndOfKPlusOneRejected_rejected :
    ∃ (s : State) (t k : Word) (frames : List FrameInput), s.Idle ∧ s.HostWaits ∧ s.gain ≠ 0 ∧
      s.lanes.length = s.cfg.n ∧ 1 < t.toNat ∧ k ≠ 0 ∧ frames.length = t.toNat ∧
      (∀ inp ∈ frames, inp.wellFormed s.cfg.n true = true) ∧ s.Hears (tareAnswers s.cfg.n frames) ∧
      ∃ i, i < s.cfg.n ∧ ∃ x ∈ tareSamples frames i, ∃ y ∈ tareSamples frames i, x - y = k.toNat + 1 :=
  ⟨hearing (tareAnswers 1 [sampling 0x000064, sampling 0x00006F]), 2, 10, [sampling 0x000064, sampling 0x00006F],
    by decide, by decide, by decide, by decide, by decide, by decide, by decide, by decide, hears_script rfl (by decide), 0, by decide⟩

/-- V-T3: K = 0. -/
theorem witness_TareWithOneSampleOrNoToleranceIsAccepted :
    ∃ (s : State) (t k : Word) (frames : List FrameInput), s.Idle ∧ s.HostWaits ∧ s.gain ≠ 0 ∧
      s.lanes.length = s.cfg.n ∧ t ≠ 0 ∧ (t = 1 ∨ k = 0) ∧ frames.length = t.toNat ∧
      (∀ inp ∈ frames, inp.wellFormed s.cfg.n true = true) ∧ s.Hears (tareAnswers s.cfg.n frames) :=
  ⟨hearing (tareAnswers 1 [sampling 0x000064, sampling 0x00006F]), 2, 0, [sampling 0x000064, sampling 0x00006F],
    by decide, by decide, by decide, by decide, by decide, by decide, by decide, by decide, hears_script rfl (by decide)⟩

/-- V-T4: T = 1. -/
theorem witness_TareWithOneSampleOrNoToleranceIsAccepted_one :
    ∃ (s : State) (t k : Word) (frames : List FrameInput), s.Idle ∧ s.HostWaits ∧ s.gain ≠ 0 ∧
      s.lanes.length = s.cfg.n ∧ t ≠ 0 ∧ (t = 1 ∨ k = 0) ∧ frames.length = t.toNat ∧
      (∀ inp ∈ frames, inp.wellFormed s.cfg.n true = true) ∧ s.Hears (tareAnswers s.cfg.n frames) ∧
      t = 1 ∧ ∃ inp, frames = [inp] :=
  ⟨hearing (tareAnswers 1 [sampling 0xFFEC78]), 1, 1, [sampling 0xFFEC78],
    by decide, by decide, by decide, by decide, by decide, by decide, by decide, by decide, hears_script rfl (by decide), by decide, _, rfl⟩

theorem witness_TareThenReadOfTheSameInputGivesZero :
    ∃ (s : State) (t : Word) (frames : List FrameInput) (last : FrameInput) (m : Nat → Word),
      s.Idle ∧ s.HostWaits ∧ s.gain ≠ 0 ∧ s.lanes.length = s.cfg.n ∧ t ≠ 0 ∧ frames.length = t.toNat ∧
      (∀ inp ∈ frames, inp.wellFormed s.cfg.n true = true) ∧ last.wellFormed s.cfg.n true = true ∧
      (∀ inp ∈ frames, ∀ i, i < s.cfg.n → rawSample inp.data i = m i) ∧
      (∀ i, i < s.cfg.n → rawSample last.data i = m i) ∧
      s.Hears (tareAnswers s.cfg.n frames ++ last.answers s.cfg.n) :=
  ⟨hearing (tareAnswers 1 [sampling 0xFFFFCE] ++ (sampling 0xFFFFCE).answers 1), 1, [sampling 0xFFFFCE],
    sampling 0xFFFFCE, fun _ => -50, by decide, by decide, by decide, by decide, by decide, by decide, by decide,
    by decide, by decide, by decide, hears_script rfl (by decide)⟩

/-- Two channels in `DSMP`; channel 1 differs between the two. -/
def twoLanes (other : Word) (level : Bool) : State :=
  { busyIn .dsmp 1 with
    cfg   := { n := 2, dpin := [1, 2], cpin := 0 }
    lanes := [{ Lane.zero with acc := 5 }, { Lane.zero with acc := other }]
    env   := { script := [[true, level]], count := 0 } }

theorem witness_LanesDoNotInteract :
    ∃ s s' t t' : State, micro s = .next t ∧ micro s' = .next t' ∧ s.seq = s'.seq ∧
      s.lanes[0]? = s'.lanes[0]? ∧ Sample.lane s.din 0 = Sample.lane s'.din 0 ∧
      (s.seq.phase = .judge → t.rsp = t'.rsp) ∧ s.lanes ≠ s'.lanes :=
  ⟨twoLanes 1 true, twoLanes 2 false, _, _, rfl, rfl, by decide, by decide, by decide, by decide, by decide⟩

theorem witness_AccIsWrittenOnlyByShiftExtendSubtract :
    ∃ s t : State, step s = .next t ∧ t.lanes.map Lane.acc ≠ s.lanes.map Lane.acc :=
  ⟨laneIn .ext 1 { Lane.zero with acc := 0x12ABCDEF }, _, rfl, by decide⟩

theorem witness_OffsetsAreWrittenOnlyByCommitAndReset :
    ∃ s t : State, step s = .next t ∧ t.lanes.map Lane.offset ≠ s.lanes.map Lane.offset :=
  ⟨judging 2 10 100 110 210, _, rfl, by decide⟩

theorem witness_GainIsWrittenOnlyBySetgainAndReset :
    ∃ s t : State, step s = .next t ∧ t.gain ≠ s.gain :=
  ⟨presenting 0x40000004000000000, _, rfl, by decide⟩

theorem witness_RspIsWrittenOnlyByTareAndChcnt :
    ∃ s t : State, step s = .next t ∧ t.rsp ≠ s.rsp :=
  ⟨presenting 0x70000000000000000, _, rfl, by decide⟩

theorem witness_ConfigurationIsFixedBetweenResets :
    ∃ s t : State, step s = .next t ∧ t.cfg ≠ s.cfg :=
  ⟨{ bench with host := [.resetNow (request Config.default)] }, _, rfl, by decide⟩

theorem witness_DebugHasNoEffect :
    ∃ s t : State, step s = .next t ∧ ∀ r, ¬ s.BeginsReset r :=
  ⟨presenting 0x70000000000000000, _, rfl, fun r h => by
    obtain ⟨-, -, later, h | h⟩ := h <;> exact absurd (congrArg List.head? h) (by simp [presenting])⟩

theorem witness_AtMostOnePinEventAStep :
    ∃ s t : State, step s = .next t ∧ t.trace ≠ s.trace :=
  ⟨busyIn .dhi 1, _, rfl, by decide⟩

theorem witness_BusyFromAcceptanceToFin :
    ∃ s t : State, step s = .next t ∧ s.busy = true ∧ t.busy = false :=
  ⟨busyIn .fin 1, _, rfl, by decide⟩

theorem witness_BusyFromAcceptanceToFin_accepted :
    ∃ s t : State, step s = .next t ∧ s.busy = false ∧ t.busy = true :=
  ⟨presenting 0x70000000000000000, _, rfl, by decide⟩

theorem witness_BusyFromAcceptanceToFin_exec :
    ∃ t : State, exec .chcnt bench = .next t := ⟨_, rfl⟩

theorem witness_BusyFromAcceptanceToFin_refused :
    ∃ s : State, s.busy = true ∧ s.host = .frameNow 0xF0000000000000000 :: [] :=
  ⟨{ busyIn .poll 1 with host := [.frameNow 0xF0000000000000000] }, by decide⟩

theorem witness_HostReadsResultsOnlyWhenIdle :
    (busyIn .poll 1).busy = true ∧ bench.busy = false := by decide

theorem witness_ClockLineIsOutputAndDataLinesAreInputs :
    Config.default.wellFormed = true ∧ 3 ∈ Config.default.dpin ∧ Config.default.direction 4 = some .output := by decide

theorem witness_ResetSequenceLeavesTheResetValues :
    ∃ (s : State) (r : ResetRequest) (inp : FrameInput) (gain : BitVec 2),
      s.Idle ∧ s.Resets r [] ∧ r.cfg.wellFormed = true ∧ ({ s with host := [] } : State).HostWaits ∧
      gain = (if r.cfg.initGain = 128 then 1 else if r.cfg.initGain = 64 then 3 else 2) ∧
      inp.wellFormed r.cfg.n false = true ∧ ({ s with cfg := r.cfg } : State).Hears (inp.answers r.cfg.n) :=
  ⟨{ hearing (flushing.answers 1) with host := [.resetWhenIdle (request bench.cfg)] }, request bench.cfg, flushing, 1,
    by decide, .inl rfl, by decide, by decide, by decide, by decide, hears_script rfl (by decide)⟩

theorem witness_EveryStepKeepsTheInvariant :
    ∃ s t : State, s.Inv ∧ step s = .next t := ⟨secondStat, _, secondStat_inv, rfl⟩

theorem witness_NoFaultUnderTheInvariant :
    ∃ s : State, s.Inv ∧ s.busy = true := ⟨firstStat, firstStat_inv, by decide⟩

/-- The hanging clause of READRAW, READRAW.F, READ, READ.F and SETGAIN. -/
theorem witness_frame_commands_hang :
    ∃ s : State, s.Idle ∧ s.HostWaits ∧ s.gain ≠ 0 ∧ ∀ j, j < 2 → ready (s.answer j) = false :=
  ⟨hearing [[true], [true]], by decide⟩

/-- The second readiness wait of TARE 2. -/
theorem witness_TareCommitsTheMeansOrRejects_hangs :
    ∃ (s : State) (t : Word) (taken : List FrameInput), s.Idle ∧ s.HostWaits ∧ s.gain ≠ 0 ∧
      s.lanes.length = s.cfg.n ∧ t ≠ 0 ∧ taken.length < t.toNat ∧
      (∀ inp ∈ taken, inp.wellFormed s.cfg.n true = true) ∧ s.Hears (tareAnswers s.cfg.n taken) ∧
      ∀ j, j < 1 → ready (s.answer ((tareAnswers s.cfg.n taken).length + j)) = false :=
  ⟨hearing (tareAnswers 1 [sampling 0x000064] ++ [[true]]), 2, [sampling 0x000064], by decide, by decide, by decide,
    by decide, by decide, by decide, by decide, by decide, by decide⟩

/-- V-T7. -/
theorem witness_TareCommitsTheMeansOrRejects_greatest_K :
    (2 : Nat) ^ 24 - 1 ≤ (16777215 : Word).toNat := by decide

theorem witness_GainPulsesAreExactlyGain_first :
    ∃ s : State, s.busy = true ∧ s.HostWaits ∧ s.seq.phase = .dlo ∧ s.seq.k = 23 :=
  ⟨{ busyIn .dlo 1 with seq := { (busyIn .dlo 1).seq with k := 23 } }, by decide⟩

theorem witness_SignExtensionIsByTheTwoMasks_entered :
    ∃ s t : State, step s = .next t ∧ t.seq.phase = .ext ∧ s.seq.phase ≠ .ext :=
  ⟨{ busyIn .glo 1 with seq := { (busyIn .glo 1).seq with smpl := true } }, _, rfl, by decide⟩

theorem witness_ResetSequenceLeavesTheResetValues_refused :
    ∃ (s : State) (r : ResetRequest), s.busy = false ∧ s.Resets r [] ∧ r.cfg.wellFormed = false :=
  ⟨{ bench with host := [.resetNow (request { n := 0, dpin := [], cpin := 0 })] },
    request { n := 0, dpin := [], cpin := 0 }, by decide⟩

end Sys2Proof.Tests
end

namespace Sys2Proof.Machine

/-! ### `GAIN`: its writers (10_state.md R17) -/

/-- The selector map, read backwards (41_gain.md R80). -/
theorem gainOfSelector_eq_some_iff {g : Word} {c : BitVec 2} :
    gainOfSelector g = some c ↔ (g = 128 ∧ c = 1) ∨ (g = 64 ∧ c = 3) ∨ (g = 32 ∧ c = 2) := by
  by_cases h128 : g = 128
  · subst h128; simp [gainOfSelector, eq_comm]
  · by_cases h64 : g = 64
    · subst h64; simp [gainOfSelector, eq_comm]
    · by_cases h32 : g = 32
      · subst h32; simp [gainOfSelector, eq_comm]
      · simp_all [gainOfSelector]

theorem gainAfter_eq_of_some {g : Word} {c : BitVec 2} (old : BitVec 2) (h : gainOfSelector g = some c) :
    gainAfter g old = c := by
  simp [gainAfter, h]

/-- A selector leaves the pulse count unchanged or is valid and gives the count it maps to (41_gain.md R82). -/
theorem gainAfter_eq_old_or_valid (g : Word) (old : BitVec 2) :
    gainAfter g old = old ∨ gainOfSelector g = some (gainAfter g old) := by
  cases h : gainOfSelector g with
  | none => exact .inl (by simp [gainAfter, h])
  | some c => exact .inr (by rw [gainAfter_eq_of_some old h])

/-- The initial selector of a legal configuration is valid (00_scope.md R7), so the count before it does not matter. -/
theorem gainOfSelector_initGain {c : Config} (h : c.wellFormed = true) (old : BitVec 2) :
    gainOfSelector c.initGain = some (gainAfter c.initGain old) := by
  have hg : (c.initGain = 128 ∨ c.initGain = 64) ∨ c.initGain = 32 := by
    simp only [Config.wellFormed, Config.gainOk, Bool.and_eq_true, Bool.or_eq_true, beq_iff_eq] at h
    exact h.2
  rcases hg with (hg | hg) | hg <;> rw [hg] <;> rfl

@[simp] theorem State.constructed_gain (s : State) (r : ResetRequest) :
    (s.constructed r).gain = gainAfter r.cfg.initGain s.gain := rfl

/-- No micro-step of the sequencer writes `GAIN`. -/
theorem micro_gain {s t : State} (h : micro s = .next t) : t.gain = s.gain := by
  rcases micro_cases h with ⟨-, rfl⟩ | ⟨-, -, rfl⟩ | ⟨-, -, rfl⟩ | ⟨-, rfl⟩ | ⟨-, -, rfl⟩ | ⟨-, -, rfl⟩ |
    ⟨-, -, rfl⟩ | ⟨-, -, rfl⟩ | ⟨-, rfl⟩ | ⟨-, rfl⟩ | ⟨-, rfl⟩ | ⟨-, rfl⟩ | ⟨-, -, -, rfl⟩ | ⟨-, -, -, rfl⟩ |
    ⟨_, -, -, rfl⟩ | ⟨-, rfl⟩ | ⟨-, rfl⟩ <;> rfl

/-- An accepted command leaves `GAIN` unchanged, or is a SETGAIN. -/
theorem exec_gain {i : Instr} {s t : State} (h : exec i s = .next t) :
    t.gain = s.gain ∨ ∃ g, i = .setgain g ∧ t.gain = gainAfter g s.gain := by
  obtain ⟨-, ⟨q, -, -, rfl⟩ | ⟨q, g, hi, rfl⟩ | ⟨q, -, rfl⟩⟩ := exec_cases h
  · exact .inl rfl
  · exact .inr ⟨g, hi, rfl⟩
  · exact .inl rfl

/-- Settles O38, by what a step can do: the sequencer never writes `GAIN`, and SETGAIN and reset write what the selector
map gives. -/
theorem gainIsWrittenOnlyBySetgainAndReset : Obligations.GainIsWrittenOnlyBySetgainAndReset := by
  intro s t h
  obtain hm | ⟨f, later, i, hb, hp, hd, he⟩ | ⟨r, later, hr, -, rfl⟩ := step_cases h
  · exact .inl (micro_gain hm)
  · obtain hg | ⟨g, rfl, hg⟩ := exec_gain he
    · exact .inl hg
    · rw [hg]
      exact (gainAfter_eq_old_or_valid g s.gain).imp_right fun hv =>
        ⟨g, .inl ⟨hb, f, later, hp, hd⟩, gainOfSelector_eq_some_iff.mp hv⟩
  · have ⟨_, hwf, _⟩ := hr
    exact .inr ⟨_, .inr ⟨r, hr, rfl⟩, gainOfSelector_eq_some_iff.mp (gainOfSelector_initGain hwf s.gain)⟩

/-! ### `DEBUG`: nothing reads it (10_state.md R19)

Every operation but a reset commutes with giving `DEBUG` another value. That nothing but a reset writes `DEBUG` follows:
a step commutes with giving `DEBUG` the value it has. -/

/-- `s` with the value `d` in `DEBUG`. -/
def State.withDebug (s : State) (d : Bool) : State := { s with debug := d }

/-- An operation whose outcome carries the value of `DEBUG` along and does not otherwise depend on it. -/
def IgnoresDebug (op : State → Host.Outcome State Fault Refusal) : Prop :=
  ∀ (s : State) (d : Bool), op (s.withDebug d) = mapNext (fun t => t.withDebug d) (op s)

theorem mapNext_ite (f : State → State) (c : Prop) [Decidable c] (a b : Host.Outcome State Fault Refusal) :
    mapNext f (if c then a else b) = if c then mapNext f a else mapNext f b :=
  apply_ite (mapNext f) c a b

/-- No row of the micro-step table looks at `DEBUG`: not its condition, where it has one, and not its writes. -/
theorem micro_ignoresDebug : IgnoresDebug micro := by
  intro s d
  have hphase : (s.withDebug d).seq.phase = s.seq.phase := rfl
  unfold micro
  rw [hphase]
  cases s.seq.phase with
  | poll | dsmp | dlo | ghi | judge | pd0 =>
    simp only [microPoll, microDsmp, microDlo, microGhi, microJudge, microPd0, mapNext_ite]
    rfl
  | idle | dhi | glo | ext | sub | stat | pd1 | fin => rfl

/-- An acceptance ignores `DEBUG` when the command's row does. -/
theorem accept_ignoresDebug (i : Instr) (start : State → State)
    (h : ∀ s d, start (s.withDebug d) = (start s).withDebug d) : IgnoresDebug (accept i start) := by
  intro s d
  unfold accept
  rw [mapNext_ite]
  simp only [mapNext, ← h]
  rfl

theorem execTare_ignoresDebug (t k : Word) : IgnoresDebug (execTare t k) := by
  intro s d
  unfold execTare
  rw [mapNext_ite, ← accept_ignoresDebug]
  · rfl
  · exact fun _ _ => rfl

theorem exec_ignoresDebug (i : Instr) : IgnoresDebug (exec i) := by
  cases i with
  | readraw   => exact accept_ignoresDebug .readraw (fun s => s.startFrame true) fun _ _ => rfl
  | readrawF  => exact accept_ignoresDebug .readrawF (fun s => s.startFrame false) fun _ _ => rfl
  | read      => exact accept_ignoresDebug .read (fun s => s.startFrame true) fun _ _ => rfl
  | readF     => exact accept_ignoresDebug .readF (fun s => s.startFrame false) fun _ _ => rfl
  | tare t k  => exact execTare_ignoresDebug t k
  | setgain g => exact accept_ignoresDebug (.setgain g) (fun s => s.startGain g) fun _ _ => rfl
  | pwrup     => exact accept_ignoresDebug .pwrup (fun s => s.goto .pd0) fun _ _ => rfl
  | pwrdn     => exact accept_ignoresDebug .pwrdn (fun s => s.goto .pd0) fun _ _ => rfl
  | chcnt     =>
    exact accept_ignoresDebug .chcnt (fun s => { s with rsp := BitVec.ofNat 32 s.cfg.n }.goto .fin) fun _ _ => rfl

theorem present_ignoresDebug (f : Frame) : IgnoresDebug (present f) := by
  intro s d
  unfold present
  rw [mapNext_ite]
  cases decode f with
  | error why => rfl
  | ok i => simp only [← exec_ignoresDebug i s d]; rfl

/-- A reset that does not begin is refused without a look at `DEBUG`. -/
theorem beginReset_withDebug {r : ResetRequest} {s : State} (d : Bool)
    (h : ¬ (s.busy = false ∧ r.cfg.wellFormed = true)) :
    beginReset r (s.withDebug d) = mapNext (fun t => t.withDebug d) (beginReset r s) := by
  have hbusy : (s.withDebug d).busy = s.busy := rfl
  unfold beginReset
  rw [hbusy]
  cases hb : s.busy with
  | true => rfl
  | false =>
    have hwf : r.cfg.wellFormed = false := by simpa [hb] using h
    rw [hwf]
    rfl

/-- A reset that begins performs its first turn (70_reset_and_hazards.md R133). -/
theorem step_of_beginsReset {s : State} {r : ResetRequest} (h : s.BeginsReset r) :
    ∃ later, step s = .next (({ s with host := later } : State).constructed r) := by
  obtain ⟨hb, hwf, later, hr⟩ := h
  exact ⟨later, by simp [step_of_resets hb hr, beginReset, hb, hwf]⟩

@[simp] theorem State.constructed_debug (s : State) (r : ResetRequest) : (s.constructed r).debug = false := rfl

/-- A step in which no reset begins ignores `DEBUG`. -/
theorem step_withDebug {s : State} (d : Bool) (hr : ∀ r, ¬ s.BeginsReset r) :
    step (s.withDebug d) = mapNext (fun t => t.withDebug d) (step s) := by
  have no_reset {r : ResetRequest} {later : List HostInput} (h : s.Resets r later) :
      ¬ (s.busy = false ∧ r.cfg.wellFormed = true) := fun ⟨hb, hwf⟩ => hr r ⟨hb, hwf, later, h⟩
  have hhost : (s.withDebug d).host = s.host := rfl
  have hbusy : (s.withDebug d).busy = s.busy := rfl
  unfold step turn
  rw [hhost, hbusy]
  split
  · exact micro_ignoresDebug s d
  · next f later _ =>
    rw [mapNext_ite, ← micro_ignoresDebug, ← present_ignoresDebug]
    rfl
  · next f later _ => exact present_ignoresDebug f { s with host := later } d
  · next r later h =>
    rw [mapNext_ite, ← micro_ignoresDebug, ← beginReset_withDebug (s := { s with host := later }) d (no_reset (.inl h))]
    rfl
  · next r later h => exact beginReset_withDebug (s := { s with host := later }) d (no_reset (.inr h))

/-- A step in which no reset begins keeps `DEBUG`: it commutes with giving `DEBUG` the value it already has. -/
theorem step_keeps_debug {s t : State} (h : step s = .next t) (hr : ∀ r, ¬ s.BeginsReset r) : t.debug = s.debug := by
  have hself : step s = mapNext (fun t => t.withDebug s.debug) (step s) := step_withDebug s.debug hr
  rw [h] at hself
  have ht : t = t.withDebug s.debug := by simpa [mapNext] using hself
  calc t.debug = (t.withDebug s.debug).debug := congrArg State.debug ht
    _ = s.debug := rfl

/-- Settles O41: a step commutes with any value of `DEBUG` unless a reset begins, and a reset clears it. -/
theorem debugHasNoEffect : Obligations.DebugHasNoEffect := by
  refine ⟨fun s t h => ?_, fun s d hr => step_withDebug d hr⟩
  by_cases hreset : ∃ r, s.BeginsReset r
  · obtain ⟨r, hr⟩ := hreset
    obtain ⟨later, hnext⟩ := step_of_beginsReset hr
    cases hnext.symm.trans h
    exact .inr ⟨State.constructed_debug _ r, r, hr⟩
  · exact .inl (step_keeps_debug h (not_exists.mp hreset))

end Sys2Proof.Machine

namespace Sys2Proof

/-! ### The decoder as the inverse of the table (30_encoding.md R50) -/

theorem Frame.eq_iff_fields {f g : Frame} : f = g ↔ f.op = g.op ∧ f.a = g.a ∧ f.b = g.b := by
  refine ⟨fun h => h ▸ ⟨rfl, rfl, rfl⟩, fun ⟨hop, ha, hb⟩ => ?_⟩
  rw [← f.mk_fields, ← g.mk_fields, hop, ha, hb]

@[simp] theorem Frame.op_and (f g : Frame) : (f &&& g).op = f.op &&& g.op := BitVec.extractLsb'_and

@[simp] theorem Frame.a_and (f g : Frame) : (f &&& g).a = f.a &&& g.a := BitVec.extractLsb'_and

@[simp] theorem Frame.b_and (f g : Frame) : (f &&& g).b = f.b &&& g.b := BitVec.extractLsb'_and

theorem decodeFlushForm_eq_ok_iff {sampling flush i : Instr} {a b : Word} :
    decodeFlushForm sampling flush a b = .ok i ↔ b = 0 ∧ (a = 0 ∧ sampling = i ∨ a = 1 ∧ flush = i) := by
  unfold decodeFlushForm
  split_ifs <;> simp_all

theorem decodePlainForm_eq_ok_iff {i j : Instr} {a b : Word} :
    decodePlainForm i a b = .ok j ↔ a = 0 ∧ b = 0 ∧ i = j := by
  unfold decodePlainForm
  split_ifs <;> simp_all

/-- A frame decodes to a command exactly when its fields are that command's columns of the table. -/
theorem decode_eq_ok_iff {f : Frame} {i : Instr} :
    decode f = .ok i ↔ f.op = i.opcode ∧ f.a = i.operandA ∧ f.b = i.operandB := by
  constructor
  · intro h
    unfold decode decodeFields at h
    split_ifs at h with h1 h2 h3 h4 hb h5 h6 h7
    · obtain ⟨hb, ⟨ha, rfl⟩ | ⟨ha, rfl⟩⟩ := decodeFlushForm_eq_ok_iff.mp h <;> exact ⟨h1, ha, hb⟩
    · obtain ⟨hb, ⟨ha, rfl⟩ | ⟨ha, rfl⟩⟩ := decodeFlushForm_eq_ok_iff.mp h <;> exact ⟨h2, ha, hb⟩
    · cases h; exact ⟨h3, rfl, rfl⟩
    · cases h; exact ⟨h4, rfl, not_not.mp hb⟩
    · obtain ⟨ha, hb, rfl⟩ := decodePlainForm_eq_ok_iff.mp h; exact ⟨h5, ha, hb⟩
    · obtain ⟨ha, hb, rfl⟩ := decodePlainForm_eq_ok_iff.mp h; exact ⟨h6, ha, hb⟩
    · obtain ⟨ha, hb, rfl⟩ := decodePlainForm_eq_ok_iff.mp h; exact ⟨h7, ha, hb⟩
  · rintro ⟨hop, ha, hb⟩
    unfold decode
    rw [hop, ha, hb]
    cases i <;> rfl

/-! ### The rows (30_encoding.md R50) -/

/-- Column `mask` of R50, bits 63:32: the first operand is free in TARE and SETGAIN. -/
def Instr.maskA : Instr → Word
  | .tare _ _ | .setgain _ => 0#32
  | .readraw | .readrawF | .read | .readF | .pwrup | .pwrdn | .chcnt => BitVec.allOnes 32

/-- Column `mask` of R50, bits 31:0: the second operand is free in TARE. -/
def Instr.maskB : Instr → Word
  | .tare _ _ => 0#32
  | .readraw | .readrawF | .read | .readF | .setgain _ | .pwrup | .pwrdn | .chcnt => BitVec.allOnes 32

/-- The columns `match` and `mask`, field by field: the opcode is always fixed, an operand where its mask says so. -/
theorem Instr.row_eq (i : Instr) :
    i.row =
      (Frame.mk i.opcode (i.operandA &&& i.maskA) (i.operandB &&& i.maskB), Frame.mk 15 i.maskA i.maskB) := by
  cases i with
  | tare t k =>
    rw [Instr.maskA, Instr.maskB, Instr.opcode, BitVec.and_zero, BitVec.and_zero]
    rfl
  | setgain g =>
    rw [Instr.maskA, Instr.maskB, Instr.opcode, Instr.operandB, BitVec.and_zero]
    rfl
  | readraw | readrawF | read | readF | pwrup | pwrdn | chcnt => rfl

/-- A frame meets a row exactly when it has the row's opcode and its operands where they are fixed. -/
theorem Instr.rowMatches_iff_fields {i : Instr} {f : Frame} :
    i.rowMatches f = true ↔
      f.op = i.opcode ∧ f.a &&& i.maskA = i.operandA &&& i.maskA ∧ f.b &&& i.maskB = i.operandB &&& i.maskB := by
  have allOnes : f.op &&& 15 = f.op := BitVec.and_allOnes
  rw [Instr.rowMatches, i.row_eq, beq_iff_eq, Frame.eq_iff_fields]
  simp only [Frame.op_and, Frame.a_and, Frame.b_and, Frame.op_mk, Frame.a_mk, Frame.b_mk, allOnes]

/-- The command of `i`'s row with the frame's operands where the row leaves them free. -/
def Instr.withOperandsOf (i : Instr) (f : Frame) : Instr :=
  match i with
  | .tare _ _  => .tare f.a f.b
  | .setgain _ => .setgain f.a
  | .readraw | .readrawF | .read | .readF | .pwrup | .pwrdn | .chcnt => i

@[simp] theorem Instr.mnemonic_withOperandsOf (i : Instr) (f : Frame) :
    (i.withOperandsOf f).mnemonic = i.mnemonic := by
  cases i <;> rfl

theorem eq_of_and_allOnes_eq {x y : Word} (h : x &&& BitVec.allOnes 32 = y &&& BitVec.allOnes 32) : x = y := by
  rwa [BitVec.and_allOnes, BitVec.and_allOnes] at h

/-- A frame that meets a row decodes to the command of that row with the frame's operands. -/
theorem Instr.decode_of_rowMatches {i : Instr} {f : Frame} (h : i.rowMatches f = true) :
    decode f = .ok (i.withOperandsOf f) := by
  obtain ⟨hop, ha, hb⟩ := Instr.rowMatches_iff_fields.mp h
  refine decode_eq_ok_iff.mpr ?_
  cases i with
  | tare t k => exact ⟨hop, rfl, rfl⟩
  | setgain g => exact ⟨hop, rfl, eq_of_and_allOnes_eq hb⟩
  | readraw | readrawF | read | readF | pwrup | pwrdn | chcnt =>
    exact ⟨hop, eq_of_and_allOnes_eq ha, eq_of_and_allOnes_eq hb⟩

/-- A frame meets the row of the command it decodes to. -/
theorem Instr.rowMatches_of_decode {i : Instr} {f : Frame} (h : decode f = .ok i) : i.rowMatches f = true := by
  obtain ⟨hop, ha, hb⟩ := decode_eq_ok_iff.mp h
  exact Instr.rowMatches_iff_fields.mpr ⟨hop, by rw [ha], by rw [hb]⟩

/-- Commands of one mnemonic have one row. -/
theorem Instr.row_eq_of_mnemonic_eq {i j : Instr} (h : i.mnemonic = j.mnemonic) : i.row = j.row := by
  cases i <;> cases j <;> simp [Instr.mnemonic] at h <;> rfl

/-- Settles O4: a frame that meets a row decodes to the command of that row with the frame's operands, and the decoder
gives a frame one command only. -/
theorem frameIsOfARowExactlyWhenItMatches : Obligations.FrameIsOfARowExactlyWhenItMatches := by
  refine ⟨fun i f => ⟨fun h => ?_, ?_⟩, fun i j f hi hj => ?_⟩
  · exact ⟨_, Instr.decode_of_rowMatches h, i.mnemonic_withOperandsOf f⟩
  · rintro ⟨j, hj, hm⟩
    rw [Instr.rowMatches, ← Instr.row_eq_of_mnemonic_eq hm]
    exact Instr.rowMatches_of_decode hj
  · have same : i.withOperandsOf f = j.withOperandsOf f :=
      Except.ok.inj ((Instr.decode_of_rowMatches hi).symm.trans (Instr.decode_of_rowMatches hj))
    calc i.mnemonic = (i.withOperandsOf f).mnemonic := (i.mnemonic_withOperandsOf f).symm
      _ = (j.withOperandsOf f).mnemonic := congrArg _ same
      _ = j.mnemonic := j.mnemonic_withOperandsOf f

/-! ### The reserved frames (30_encoding.md R51) -/

/-- `A[31:1] = 0` leaves the flush flag alone (R49). -/
theorem extractLsb'_one_eq_zero_iff {a : Word} : a.extractLsb' 1 31 = 0 ↔ a = 0 ∨ a = 1 := by
  have tail : (a.extractLsb' 1 31).toNat = a.toNat / 2 := by
    rw [BitVec.extractLsb'_toNat, Nat.shiftRight_eq_div_pow]
    omega
  simp only [← BitVec.toNat_inj, tail, BitVec.ofNat_eq_ofNat, BitVec.toNat_ofNat]
  omega

theorem decodeFlushForm_isError_iff {sampling flush : Instr} {a b : Word} :
    (∃ why, decodeFlushForm sampling flush a b = .error why) ↔ a.extractLsb' 1 31 ≠ 0 ∨ b ≠ 0 := by
  rw [ne_eq, extractLsb'_one_eq_zero_iff]
  unfold decodeFlushForm
  split_ifs <;> simp_all

theorem decodePlainForm_isError_iff {i : Instr} {a b : Word} :
    (∃ why, decodePlainForm i a b = .error why) ↔ a ≠ 0 ∨ b ≠ 0 := by
  unfold decodePlainForm
  split_ifs <;> simp_all

/-- The decoder fails on the reserved frames of R51 and on no other. -/
theorem decode_isError_iff {f : Frame} :
    (∃ why, decode f = .error why) ↔
      (f.op = 0 ∨ 8 ≤ f.op.toNat) ∨
      ((f.op = 1 ∨ f.op = 2) ∧ (f.a.extractLsb' 1 31 ≠ 0 ∨ f.b ≠ 0)) ∨
      (f.op = 4 ∧ f.b ≠ 0) ∨
      ((f.op = 5 ∨ f.op = 6 ∨ f.op = 7) ∧ (f.a ≠ 0 ∨ f.b ≠ 0)) := by
  unfold decode decodeFields
  split_ifs with h1 h2 h3 h4 hb h5 h6 h7
  · simp [h1, decodeFlushForm_isError_iff]
  · simp [h2, decodeFlushForm_isError_iff]
  · simp [h3]
  · simpa [h4] using hb
  · simpa [h4] using hb
  · simp [h5, decodePlainForm_isError_iff]
  · simp [h6, decodePlainForm_isError_iff]
  · simp [h7, decodePlainForm_isError_iff]
  · have hop : f.op = 0 ∨ 8 ≤ f.op.toNat := by bv_omega
    exact iff_of_true ⟨_, rfl⟩ (.inl hop)

end Sys2Proof

namespace Sys2Proof.Machine

/-- A frame that does not decode is refused by an idle block (R51). -/
theorem present_of_decode_error {s : State} {f : Frame} {why : DecodeError} (hb : s.busy = false)
    (hd : decode f = .error why) : present f s = .refused (.illegalCommand why) := by
  simp [present, hb, hd]

/-- Settles O5: the decoder's branches that fail are the reserved frames, and presenting one is refused. -/
theorem reservedFramesAreTheseAndAreRefused : Obligations.ReservedFramesAreTheseAndAreRefused := by
  refine ⟨fun f => decode_isError_iff, fun s f later why hb hp hd => ?_, fun g => ?_⟩
  · rw [step_of_presents hb hp]
    exact present_of_decode_error hb hd
  · exact decode_eq_ok_iff.mpr ⟨Frame.op_mk .., Frame.a_mk .., Frame.b_mk ..⟩

end Sys2Proof.Machine

namespace Sys2Proof.Machine

/-! ### The procedures of a frame (40_acquisition.md R61 to R67) -/

/-- Two runs, one after the other. -/
theorem run_trans {s t u : State} {a b : Nat} (h : run a s = .next t) (h' : run b t = .next u) :
    run (a + b) s = .next u := by
  rw [run_add b h, h']

/-! #### The readiness wait -/

/-- `s` after `m` samples in which it did nothing else. -/
def State.waited (s : State) (m : Nat) : State :=
  { s with
    env   := s.env.advance m
    trace := s.trace ++ (List.range m).map fun j => .smp (s.answer j) }

theorem State.waited_din (s : State) (m : Nat) : (s.waited m).din = s.answer m :=
  s.answer_advance m 0 _ rfl rfl

theorem State.waited_trace_succ (s : State) (m : Nat) :
    (s.waited (m + 1)).trace = (s.waited m).trace ++ [.smp (s.answer m)] := by
  simp [State.waited, List.range_succ]

theorem State.waited_env_succ (s : State) (m : Nat) : (s.waited (m + 1)).env = (s.waited m).env.advance 1 := by
  simp [State.waited]

/-- Settles O13, by induction on the number of answers that are not all LOW. -/
theorem readinessWaitHasNoBound : Obligations.ReadinessWaitHasNoBound := by
  intro s m hb hw hp h
  change run m s = .next (s.waited m)
  induction m with
  | zero => simp [State.waited]
  | succ m ih =>
    have hwait : ready (s.waited m).din = false := by
      rw [State.waited_din]
      exact h m m.lt_succ_self
    refine run_snoc_micro (ih fun j hj => h j (by omega)) hb (hw.of_host_eq rfl) ?_
    rw [micro_poll_wait (s := s.waited m) hp hwait, State.waited_din, ← State.waited_trace_succ,
      ← State.waited_env_succ]
    rfl

/-- Settles O12: the wait goes on through the answers that are not all LOW (R62), and the next micro-step ends it. -/
theorem readinessWaitEndsAtFirstAllLowSample : Obligations.ReadinessWaitEndsAtFirstAllLowSample := by
  intro s m hb hw hp hwait hlow
  have hready : ready (s.waited m).din = true := by rwa [State.waited_din]
  refine run_snoc_micro (readinessWaitHasNoBound s m hb hw hp hwait) hb (hw.of_host_eq rfl) ?_
  change micro (s.waited m) = _
  rw [micro_poll_ready (s := s.waited m) hp hready, State.waited_din, ← State.waited_trace_succ,
    ← State.waited_env_succ]
  rfl

/-! #### The data pulses -/

/-- The events of `p` plain pulses and those of the next. -/
theorem flatten_replicate_succ_plainPulse (p : Nat) :
    (List.replicate (p + 1) plainPulse).flatten =
      (List.replicate p plainPulse).flatten ++ [.ck true] ++ [.ck false] := by
  simp [List.replicate_succ', plainPulse]

/-- `s` after the falling edge of a data pulse before the last. -/
def State.nextPulse (s : State) : State :=
  { s with
    sck   := false
    trace := s.trace ++ [.ck false]
    seq   := { s.seq with k := s.seq.k + 1, phase := .dhi } }

/-- `s`, at the first `DHI` of a sampling frame, when `p` data pulses are completed and the next is about to fall. -/
def State.sampledPulses (s : State) (data : List Sample) (p : Nat) : State :=
  { s with
    lanes := s.lanes.mapIdx fun i l => { l with acc := shiftedIn l.acc data i (p + 1) }
    sck   := true
    env   := s.env.advance (p + 1)
    trace := s.trace ++ (data.take p).flatMap dataPulse ++ [.ck true, .smp (data[p]?.getD [])]
    seq   := { s.seq with k := BitVec.ofNat 5 p, phase := .dlo } }

/-- `s`, at the first `DHI` of a flush frame, when `p` data pulses are completed and the next is about to fall. -/
def State.plainPulses (s : State) (p : Nat) : State :=
  { s with
    sck   := true
    trace := s.trace ++ (List.replicate p plainPulse).flatten ++ [.ck true]
    seq   := { s.seq with k := BitVec.ofNat 5 p, phase := .dlo } }

/-- The pulse index is exact as long as the frame has a data pulse to come (R22). -/
theorem toNat_pulseIndex {p : Nat} (hp : p ≤ 23) : (BitVec.ofNat 5 p).toNat = p := by
  rw [BitVec.toNat_ofNat]
  omega

/-- The events of `p` data pulses and those of the next. -/
theorem flatMap_dataPulse_take_succ {data : List Sample} {p : Nat} (hp : p < data.length) :
    (data.take (p + 1)).flatMap dataPulse =
      (data.take p).flatMap dataPulse ++ [.ck true, .smp (data[p]?.getD []), .ck false] := by
  rw [List.take_add_one, List.getElem?_eq_getElem hp, List.flatMap_append]
  rfl

/-- The rising edge of a data pulse and its sample (R63). -/
theorem run_sampledRise {s : State} (hb : s.busy = true) (hw : s.HostWaits) (hp : s.seq.phase = .dhi)
    (hs : s.seq.smpl = true) (hk : s.seq.k.toNat ≤ 23) :
    run 2 s = .next
      { s with
        lanes := s.lanes.mapIdx fun i l =>
          { l with acc := writeBit l.acc (23 - s.seq.k.toNat) (Sample.lane s.din i) }
        sck   := true
        env   := s.env.advance 1
        trace := s.trace ++ [.ck true, .smp s.din]
        seq   := { s.seq with phase := .dlo } } := by
  have rise := run_snoc_micro (run_zero s) hb hw (micro_dhi hp)
  rw [hs] at rise
  rw [run_snoc_micro rise hb (hw.of_host_eq rfl) (micro_dsmp rfl hk), List.append_assoc]
  rfl

/-- R63, the pulses of a sampling frame, by induction on their number: each adds its two edges and its sample to the
trace and one bit to every `ACC`. -/
theorem run_sampledPulses {s : State} {data : List Sample} {p : Nat} (hb : s.busy = true) (hw : s.HostWaits)
    (hd : s.seq.phase = .dhi) (hk : s.seq.k = 0) (hs : s.seq.smpl = true) (hears : s.Hears data)
    (hl : data.length = 24) (hp : p ≤ 23) : run (3 * p + 2) s = .next (s.sampledPulses data p) := by
  induction p with
  | zero =>
    have hdin : s.din = data[0]?.getD [] := hears 0 (by omega)
    rw [Nat.mul_zero, Nat.zero_add, run_sampledRise hb hw hd hs (by simp [hk]), hdin]
    simp [State.sampledPulses, hk, shiftedIn_succ]
  | succ p ih =>
    have hp23 : p < 23 := hp
    have hkp : (s.sampledPulses data p).seq.k.toNat = p := toNat_pulseIndex hp23.le
    have hkp' : (s.sampledPulses data p).nextPulse.seq.k.toNat = p + 1 := by
      rw [← toNat_pulseIndex hp, BitVec.ofNat_add]
      rfl
    have hdin : (s.sampledPulses data p).nextPulse.din = data[p + 1]?.getD [] :=
      Eq.trans (s.answer_advance (p + 1) 0 _ rfl rfl) (hears (p + 1) (by omega))
    have fall := run_snoc_micro (ih hp23.le) hb (hw.of_host_eq rfl) (micro_dlo_more rfl (hkp.trans_lt hp23))
    have rise := run_sampledRise (s := (s.sampledPulses data p).nextPulse) hb (hw.of_host_eq rfl) rfl hs
      (hkp'.trans_le hp)
    rw [show 3 * (p + 1) + 2 = 3 * p + 2 + 1 + 2 by omega, run_trans fall rise, hkp', hdin]
    simp [State.sampledPulses, State.nextPulse, shiftedIn_succ, flatMap_dataPulse_take_succ, hl, hp23.trans,
      BitVec.ofNat_add, Function.comp_def]

/-- R63, the pulses of a flush frame, by induction on their number: each adds its two edges to the trace. -/
theorem run_plainPulses {s : State} {p : Nat} (hb : s.busy = true) (hw : s.HostWaits) (hd : s.seq.phase = .dhi)
    (hk : s.seq.k = 0) (hs : s.seq.smpl = false) (hp : p ≤ 23) :
    run (2 * p + 1) s = .next (s.plainPulses p) := by
  induction p with
  | zero =>
    refine run_snoc_micro (run_zero s) hb hw ?_
    rw [micro_dhi hd]
    simp [State.plainPulses, hs, hk]
  | succ p ih =>
    have hp23 : p < 23 := hp
    have hkp : (s.plainPulses p).seq.k.toNat = p := toNat_pulseIndex hp23.le
    have fall := run_snoc_micro (ih hp23.le) hb (hw.of_host_eq rfl) (micro_dlo_more rfl (hkp.trans_lt hp23))
    refine run_snoc_micro fall hb (hw.of_host_eq rfl) ?_
    rw [micro_dhi rfl]
    simp [State.plainPulses, hs, BitVec.ofNat_add, flatten_replicate_succ_plainPulse]

/-- R63, the shift-in of a sampling frame: 23 whole pulses and the rise of the last, and then the last falling edge. -/
theorem run_shiftIn {s : State} {data : List Sample} (hb : s.busy = true) (hw : s.HostWaits)
    (hd : s.seq.phase = .dhi) (hk : s.seq.k = 0) (hs : s.seq.smpl = true) (hears : s.Hears data)
    (hl : data.length = 24) :
    run 72 s = .next
      { s with
        lanes := s.lanes.mapIdx fun i l => { l with acc := shiftedIn l.acc data i 24 }
        sck   := false
        env   := s.env.advance 24
        trace := s.trace ++ data.flatMap dataPulse
        seq   := { s.seq with k := 23, g := 0, phase := .ghi } } := by
  have pulses := run_sampledPulses hb hw hd hk hs hears hl (p := 23) le_rfl
  have htrace := flatMap_dataPulse_take_succ (data := data) (p := 23) (by omega)
  rw [List.take_of_length_le hl.le] at htrace
  rw [run_snoc_micro pulses hb (hw.of_host_eq rfl) (micro_dlo_last rfl (Nat.lt_irrefl 23)), htrace]
  simp [State.sampledPulses]

/-- R63, the shift-in of a flush frame. -/
theorem run_flushPulses {s : State} (hb : s.busy = true) (hw : s.HostWaits) (hd : s.seq.phase = .dhi)
    (hk : s.seq.k = 0) (hs : s.seq.smpl = false) :
    run 48 s = .next
      { s with
        sck   := false
        trace := s.trace ++ (List.replicate 24 plainPulse).flatten
        seq   := { s.seq with k := 23, g := 0, phase := .ghi } } := by
  have pulses := run_plainPulses hb hw hd hk hs (p := 23) le_rfl
  rw [run_snoc_micro pulses hb (hw.of_host_eq rfl) (micro_dlo_last rfl (Nat.lt_irrefl 23)),
    flatten_replicate_succ_plainPulse]
  simp only [State.plainPulses, List.append_assoc]
  rfl

/-- Settles O15: the 24 bit writes of the shift-in leave the field under the stale high bits. -/
theorem shiftInWritesTheFieldAndNothingElse : Obligations.ShiftInWritesTheFieldAndNothingElse := by
  refine ⟨fun s hb hw hd hk hs => ⟨_, ?_, rfl⟩, fun s => run_flushPulses⟩
  have hl : ((List.range 24).map s.answer).length = 24 := by rw [List.length_map, List.length_range]
  have hears : s.Hears ((List.range 24).map s.answer) := fun j hj => by
    rw [hl] at hj
    rw [List.getElem?_map, List.getElem?_range hj]
    rfl
  simp only [run_shiftIn hb hw hd hk hs hears hl, shiftedIn_all _ _ _ hl]

/-! #### The gain pulses -/

/-- `s`, at the first `GHI` of a frame, when `p` gain pulses are completed and the next is about to fall. -/
def State.gainPulses (s : State) (p : Nat) : State :=
  { s with
    sck   := true
    trace := s.trace ++ (List.replicate p plainPulse).flatten ++ [.ck true]
    seq   := { s.seq with g := BitVec.ofNat 2 p, phase := .glo } }

/-- R65, by induction on the number of gain pulses. -/
theorem run_gainPulses {s : State} {p : Nat} (hb : s.busy = true) (hw : s.HostWaits) (hd : s.seq.phase = .ghi)
    (hg : s.seq.g = 0) (hp : p < s.gain.toNat) : run (2 * p + 1) s = .next (s.gainPulses p) := by
  have hgain : s.gain ≠ 0 := by bv_omega
  induction p with
  | zero =>
    refine run_snoc_micro (run_zero s) hb hw ?_
    rw [micro_ghi hd hgain]
    simp [State.gainPulses, hg]
  | succ p ih =>
    have more : (s.gainPulses p).seq.g + 1 < (s.gainPulses p).gain := by
      change BitVec.ofNat 2 p + 1 < s.gain
      bv_omega
    have low := micro_glo (s := s.gainPulses p) rfl
    rw [if_pos more] at low
    have fall := run_snoc_micro (ih (by omega)) hb (hw.of_host_eq rfl) low
    refine run_snoc_micro fall hb (hw.of_host_eq rfl) (Eq.trans (micro_ghi rfl hgain) ?_)
    simp [State.gainPulses, BitVec.ofNat_add, flatten_replicate_succ_plainPulse]

/-- Settles O16: the last falling edge of the shift-in; and every gain pulse but its last falling edge, then that. -/
theorem gainPulsesAreExactlyGain : Obligations.GainPulsesAreExactlyGain := by
  refine ⟨fun s hb hw hd hk => ?_, fun s hb hw hd hg hgain => ?_⟩
  · rw [step_of_busy hb hw, micro_dlo_last hd (by simp [hk])]
  · obtain ⟨p, hp⟩ : ∃ p, s.gain.toNat = p + 1 := Nat.exists_eq_succ_of_ne_zero (by bv_omega)
    have last : (s.gainPulses p).seq.g + 1 = (s.gainPulses p).gain := by
      change BitVec.ofNat 2 p + 1 = s.gain
      bv_omega
    have low := micro_glo (s := s.gainPulses p) rfl
    rw [last, if_neg (BitVec.lt_irrefl _)] at low
    rw [hp, Nat.mul_succ, run_snoc_micro (run_gainPulses hb hw hd hg (by omega)) hb (hw.of_host_eq rfl) low,
      flatten_replicate_succ_plainPulse]
    simp [State.gainPulses, Seq.afterGain]

/-! #### The sign extension -/

theorem Seq.afterGain_eq_ext_iff {q : Seq} : q.afterGain = .ext ↔ q.smpl = true := by
  unfold Seq.afterGain
  cases q.smpl <;> simp

theorem ite_phase_ne_ext {c : Prop} [Decidable c] {p q : Phase} (hp : p ≠ .ext) (hq : q ≠ .ext) :
    (if c then p else q) ≠ .ext := by
  split <;> assumption

/-- `EXT` is entered from the last gain pulse of a sampling frame only (R72). -/
theorem micro_enters_ext {s t : State} (h : micro s = .next t) (ht : t.seq.phase = .ext) (hs : s.seq.phase ≠ .ext) :
    s.seq.phase = .glo ∧ s.seq.smpl = true := by
  rcases micro_cases h with ⟨-, rfl⟩ | ⟨-, -, rfl⟩ | ⟨-, -, rfl⟩ | ⟨-, rfl⟩ | ⟨-, -, rfl⟩ | ⟨-, -, rfl⟩ |
    ⟨-, -, rfl⟩ | ⟨-, -, rfl⟩ | ⟨hp, rfl⟩ | ⟨hp, -⟩ | ⟨-, rfl⟩ | ⟨-, rfl⟩ | ⟨-, -, -, rfl⟩ | ⟨-, -, -, rfl⟩ |
    ⟨_, -, hp, rfl⟩ | ⟨-, rfl⟩ | ⟨-, rfl⟩
  · exact absurd ht hs
  · cases ht
  · exact absurd ht hs
  · exact absurd ht (ite_phase_ne_ext (by decide) (by decide))
  · cases ht
  · cases ht
  · cases ht
  · cases ht
  · dsimp only at ht
    split at ht
    · cases ht
    · exact ⟨hp, Seq.afterGain_eq_ext_iff.mp ht⟩
  · exact absurd hp hs
  · cases ht
  · exact absurd ht (ite_phase_ne_ext (by decide) (by decide))
  · cases ht
  · cases ht
  · rcases hp with ⟨-, rfl⟩ | ⟨-, rfl⟩ | ⟨-, rfl⟩ <;> cases ht
  · cases ht
  · cases ht

/-- The first phase of a command (R72, row `IDLE`). -/
theorem exec_phase {i : Instr} {s t : State} (h : exec i s = .next t) :
    t.seq.phase = .poll ∨ t.seq.phase = .pd0 ∨ t.seq.phase = .fin := by
  obtain ⟨hb, -⟩ := exec_cases h
  cases i with
  | readraw   => rw [exec_readraw hb] at h; cases h; exact .inl rfl
  | readrawF  => rw [exec_readrawF hb] at h; cases h; exact .inl rfl
  | read      => rw [exec_read hb] at h; cases h; exact .inl rfl
  | readF     => rw [exec_readF hb] at h; cases h; exact .inl rfl
  | setgain g => rw [exec_setgain g hb] at h; cases h; exact .inr (.inl rfl)
  | pwrup     => rw [exec_pwrup hb] at h; cases h; exact .inr (.inl rfl)
  | pwrdn     => rw [exec_pwrdn hb] at h; cases h; exact .inr (.inl rfl)
  | chcnt     => rw [exec_chcnt hb] at h; cases h; exact .inr (.inr rfl)
  | tare t k  =>
    by_cases ht : t = 0
    · rw [ht, exec_tare_zero k hb] at h; cases h
    · rw [exec_tare k hb ht] at h; cases h; exact .inl rfl

/-- Settles O17: the row `EXT`, the law of the two masks, and the phases a step can enter. -/
theorem signExtensionIsByTheTwoMasks : Obligations.SignExtensionIsByTheTwoMasks := by
  refine ⟨fun s hb hw hp => ⟨s.seq.afterExt, ?_⟩, signExtend24_eq, fun s t h ht hs => ?_⟩
  · rw [step_of_busy hb hw, micro_ext hp]
    rfl
  · obtain hm | ⟨_, _, _, _, _, _, he⟩ | ⟨_, _, -, -, rfl⟩ := step_cases h
    · exact micro_enters_ext hm ht hs
    · rcases exec_phase he with hp | hp | hp <;> rw [hp] at ht <;> cases ht
    · cases ht

/-! ### Whole frames (40_acquisition.md R69, R70) -/

theorem State.Hears.left {s : State} {a b : List Sample} (h : s.Hears (a ++ b)) : s.Hears a := fun j hj => by
  rw [h j (by rw [List.length_append]; omega), List.getElem?_append_left hj]

/-- What ENV answers after the answers `a`. -/
theorem State.Hears.right {s t : State} {a b : List Sample} (h : s.Hears (a ++ b)) (hc : t.cfg.n = s.cfg.n)
    (he : t.env = s.env.advance a.length) : t.Hears b := fun j hj => by
  rw [s.answer_advance a.length j t hc he, h _ (by rw [List.length_append]; omega),
    List.getElem?_append_right (by omega), Nat.add_sub_cancel_left]

/-- The answers heard, as the list the wait records. -/
theorem State.Hears.map_range {s : State} {a : List Sample} (h : s.Hears a) :
    (List.range a.length).map s.answer = a :=
  List.ext_getElem (by simp) fun j _ hj => by simp [h j hj, hj]

theorem FrameInput.answers_eq_append (inp : FrameInput) (n : Nat) :
    inp.answers n = (inp.polls ++ [allLow n]) ++ inp.data := by
  simp [FrameInput.answers]

theorem FrameInput.wellFormed_iff {inp : FrameInput} {n : Nat} {smpl : Bool} :
    inp.wellFormed n smpl = true ↔
      (∀ v ∈ inp.polls, v.length = n ∧ ready v = false) ∧ (∀ v ∈ inp.data, v.length = n) ∧
        inp.data.length = if smpl then 24 else 0 := by
  simp [FrameInput.wellFormed, and_assoc]

theorem ready_allLow (n : Nat) : ready (allLow n) = true := by
  simp [ready, allLow]

/-- R61, the readiness wait of a frame input: its poll answers, then `0^N`. -/
theorem run_polls {s : State} {inp : FrameInput} {smpl : Bool} (hb : s.busy = true) (hw : s.HostWaits)
    (hp : s.seq.phase = .poll) (hwf : inp.wellFormed s.cfg.n smpl = true) (hears : s.Hears (inp.answers s.cfg.n)) :
    run (inp.polls.length + 1) s = .next
      { s with
        env   := s.env.advance (inp.polls.length + 1)
        trace := s.trace ++ (inp.polls ++ [allLow s.cfg.n]).map .smp
        seq   := { s.seq with k := 0, phase := .dhi } } := by
  rw [FrameInput.answers_eq_append] at hears
  obtain ⟨hpolls, -, -⟩ := FrameInput.wellFormed_iff.mp hwf
  have hnot : ∀ j, j < inp.polls.length → ready (s.answer j) = false := fun j hj => by
    rw [hears.left.left j hj, List.getElem?_eq_getElem hj]
    exact (hpolls _ (List.getElem_mem hj)).2
  have hlow : ready (s.answer inp.polls.length) = true := by
    rw [hears.left inp.polls.length (by simp)]
    simp [ready_allLow]
  have htrace := congrArg (List.map Event.smp) hears.left.map_range
  rw [List.length_append, List.length_singleton, List.map_map] at htrace
  rw [← htrace]
  exact readinessWaitEndsAtFirstAllLowSample s inp.polls.length hb hw hp hnot hlow

/-- The 24 bit writes and the sign extension leave every `ACC` its raw sample (R68). -/
theorem map_extend_shiftedIn (lanes : List Lane) {data : List Sample} (hl : data.length = 24) :
    (lanes.mapIdx fun i l => { l with acc := shiftedIn l.acc data i 24 }).map Lane.extend =
      sampledLanes data lanes := by
  apply List.ext_getElem
  · simp [sampledLanes]
  · intro i _ _
    simp [sampledLanes, Lane.extend, signExtend24_shiftedIn, hl]

/-- A sampling frame, from `POLL` to the end of `EXT` (R69, R72). -/
theorem run_samplingFrame {s : State} {inp : FrameInput} (hb : s.busy = true) (hw : s.HostWaits)
    (hp : s.seq.phase = .poll) (hs : s.seq.smpl = true) (hg : s.gain ≠ 0) (hwf : inp.wellFormed s.cfg.n true = true)
    (hears : s.Hears (inp.answers s.cfg.n)) :
    run (inp.samplingSteps s.gain) s = .next
      { s with
        lanes := sampledLanes inp.data s.lanes
        sck   := false
        env   := s.env.advance (inp.answers s.cfg.n).length
        trace := s.trace ++ inp.samplingTrace s.cfg.n s.gain
        seq   := { s.seq with k := 23, g := s.gain, phase := s.seq.afterExt } } := by
  obtain ⟨-, -, hl⟩ := FrameInput.wellFormed_iff.mp hwf
  rw [if_pos rfl] at hl
  have polls := run_polls hb hw hp hwf hears
  rw [FrameInput.answers_eq_append] at hears
  have shift := run_trans polls
    (run_shiftIn hb (hw.of_host_eq rfl) rfl rfl hs (hears.right rfl (by simp)) hl)
  have gain := run_trans shift (gainPulsesAreExactlyGain.2 _ hb (hw.of_host_eq rfl) rfl rfl hg)
  have ext := run_snoc_micro gain hb (hw.of_host_eq rfl) (micro_ext (if_pos hs))
  rw [map_extend_shiftedIn _ hl] at ext
  refine Eq.trans ext ?_
  simp [FrameInput.answers, FrameInput.samplingTrace, hl, Seq.afterExt]

/-- A flush frame, from `POLL` to `FIN` (R70, R72). -/
theorem run_flushFrame {s : State} {inp : FrameInput} (hb : s.busy = true) (hw : s.HostWaits)
    (hp : s.seq.phase = .poll) (hs : s.seq.smpl = false) (hg : s.gain ≠ 0)
    (hwf : inp.wellFormed s.cfg.n false = true) (hears : s.Hears (inp.answers s.cfg.n)) :
    run (inp.flushSteps s.gain) s = .next
      { s with
        sck   := false
        env   := s.env.advance (inp.answers s.cfg.n).length
        trace := s.trace ++ inp.flushTrace s.cfg.n s.gain
        seq   := { s.seq with k := 23, g := s.gain, phase := .fin } } := by
  obtain ⟨-, -, hl⟩ := FrameInput.wellFormed_iff.mp hwf
  have polls := run_polls hb hw hp hwf hears
  have shift := run_trans polls (run_flushPulses hb (hw.of_host_eq rfl) rfl rfl hs)
  have gain := run_trans shift (gainPulsesAreExactlyGain.2 _ hb (hw.of_host_eq rfl) rfl rfl hg)
  refine Eq.trans gain ?_
  simp [FrameInput.answers, FrameInput.flushTrace, hl, hs, List.replicate_add]

/-! ### Commands of one frame -/

/-- `FIN` ends the command (R72). -/
theorem run_fin {s t : State} {a : Nat} (h : run a s = .next t) (hb : t.busy = true) (hw : t.HostWaits)
    (hp : t.seq.phase = .fin) :
    run (a + 1) s = .next { t with busy := false, seq := { t.seq with phase := .idle } } :=
  run_snoc_micro h hb hw (micro_fin hp)

/-- A command that is accepted into the wait is busy as long as ENV does not answer `0^N` (R62). -/
theorem busy_while_not_ready {s : State} {q : Seq} {m : Nat} (hw : s.HostWaits) (hq : q.phase = .poll)
    (h : ∀ j, j < m → ready (s.answer j) = false) :
    ∃ u, run m { s with busy := true, seq := q } = .next u ∧ u.busy = true :=
  ⟨_, readinessWaitHasNoBound _ m rfl (hw.of_host_eq rfl) hq h, rfl⟩

/-- A command that is accepted into a sampling frame and does nothing after it leaves every `ACC` its raw sample,
in the range of R15. -/
theorem samplingCommand_completes {s : State} {q : Seq} {inp : FrameInput} (hb : s.busy = false) (hw : s.HostWaits)
    (hg : s.gain ≠ 0) (hq : q.phase = .poll) (hs : q.smpl = true) (hfin : q.afterExt = .fin)
    (hwf : inp.wellFormed s.cfg.n true = true) (hears : s.Hears (inp.answers s.cfg.n)) :
    ∃ q' : Seq, q'.phase = .idle ∧
      run (inp.samplingSteps s.gain + 1) { s with busy := true, seq := q } = .next
        { s with
          lanes := sampledLanes inp.data s.lanes
          sck   := false
          env   := s.env.advance (inp.answers s.cfg.n).length
          trace := s.trace ++ inp.samplingTrace s.cfg.n s.gain
          seq   := q' } ∧
      ∀ i, RawRange (rawSample inp.data i) := by
  have frame := run_samplingFrame (s := { s with busy := true, seq := q }) rfl (hw.of_host_eq rfl) hq hs hg hwf hears
  refine ⟨{ q with k := 23, g := s.gain, phase := .idle }, rfl, ?_, rawRange_rawSample inp.data⟩
  rw [run_fin frame rfl (hw.of_host_eq rfl) hfin, hb]

/-- A command that is accepted into a flush frame writes nothing but `SCK`. -/
theorem flushCommand_completes {s : State} {q : Seq} {inp : FrameInput} (hb : s.busy = false) (hw : s.HostWaits)
    (hg : s.gain ≠ 0) (hq : q.phase = .poll) (hs : q.smpl = false)
    (hwf : inp.wellFormed s.cfg.n false = true) (hears : s.Hears (inp.answers s.cfg.n)) :
    ∃ q' : Seq, q'.phase = .idle ∧
      run (inp.flushSteps s.gain + 1) { s with busy := true, seq := q } = .next
        { s with
          sck   := false
          env   := s.env.advance (inp.answers s.cfg.n).length
          trace := s.trace ++ inp.flushTrace s.cfg.n s.gain
          seq   := q' } := by
  have frame := run_flushFrame (s := { s with busy := true, seq := q }) rfl (hw.of_host_eq rfl) hq hs hg hwf hears
  refine ⟨{ q with k := 23, g := s.gain, phase := .idle }, rfl, ?_⟩
  rw [run_fin frame rfl (hw.of_host_eq rfl) rfl, hb]

/-- Settles O20: READRAW is accepted into a sampling frame, after which R72 has nothing but `FIN` for it. -/
theorem readrawPerformsOneSamplingFrame : Obligations.ReadrawPerformsOneSamplingFrame := by
  refine ⟨by decide, fun s ⟨hb, _⟩ hw hg => ⟨_, exec_readraw hb, fun inp hwf hears => ?_, fun m h => ?_⟩⟩
  · exact samplingCommand_completes hb hw hg rfl rfl rfl hwf hears
  · exact busy_while_not_ready hw rfl h

/-- Settles O21: READRAW.F is accepted into a flush frame. -/
theorem readrawFPerformsOneFlushFrame : Obligations.ReadrawFPerformsOneFlushFrame := by
  refine ⟨by decide, fun s ⟨hb, _⟩ hw hg => ⟨_, exec_readrawF hb, fun inp hwf hears => ?_, fun m h => ?_⟩⟩
  · exact flushCommand_completes hb hw hg rfl rfl hwf hears
  · exact busy_while_not_ready hw rfl h

end Sys2Proof.Machine

namespace Sys2Proof.Machine

/-! ### SETGAIN's sequence: the LOW write, then a flush frame (41_gain.md R81) -/

/-- A selector never makes the pulse count 0, which the gain pulses could not issue (R80, R82). -/
theorem gainAfter_ne_zero (g : Word) {old : BitVec 2} (h : old ≠ 0) : gainAfter g old ≠ 0 := by
  obtain ha | hv := gainAfter_eq_old_or_valid g old
  · rwa [ha]
  · obtain ⟨-, hc⟩ | ⟨-, hc⟩ | ⟨-, hc⟩ := gainOfSelector_eq_some_iff.mp hv <;> rw [hc] <;> decide

/-- The LOW write between the acceptance of SETGAIN and its wait (R72, R81). -/
theorem run_lowWrite {s : State} {q : Seq} (hw : s.HostWaits) (hq : q.phase = .pd0) (ho : q.opl = 4) :
    run 1 { s with busy := true, seq := q } = .next
      { s.writeClock false with busy := true, seq := { q with phase := .poll } } :=
  run_snoc_micro (run_zero _) rfl (hw.of_host_eq rfl) (micro_pd0_setgain hq ho)

/-- From `PD0` with `OPL` = SETGAIN: `CK(0)`, then a flush frame with the pulses of the `GAIN` already written. -/
theorem gainSequence_completes {s : State} {q : Seq} {inp : FrameInput} (hb : s.busy = false) (hw : s.HostWaits)
    (hg : s.gain ≠ 0) (hq : q.phase = .pd0) (ho : q.opl = 4) (hs : q.smpl = false)
    (hwf : inp.wellFormed s.cfg.n false = true) (hears : s.Hears (inp.answers s.cfg.n)) :
    ∃ q' : Seq, q'.phase = .idle ∧
      run (1 + inp.flushSteps s.gain + 1) { s with busy := true, seq := q } = .next
        { s with
          sck   := false
          env   := s.env.advance (inp.answers s.cfg.n).length
          trace := s.trace ++ .ck false :: inp.flushTrace s.cfg.n s.gain
          seq   := q' } := by
  obtain ⟨q', hidle, hflush⟩ :=
    flushCommand_completes (s := s.writeClock false) (q := { q with phase := .poll }) hb (hw.of_host_eq rfl) hg rfl hs
      hwf hears
  refine ⟨q', hidle, (run_trans (run_lowWrite hw hq ho) hflush).trans ?_⟩
  simp

/-- The sequence is busy as long as ENV does not answer `0^N`: the LOW write takes no sample, and the wait has no bound
(R62). -/
theorem gainSequence_busy_while_not_ready {s : State} {q : Seq} {m : Nat} (hw : s.HostWaits) (hq : q.phase = .pd0)
    (ho : q.opl = 4) (h : ∀ j, j < m → ready (s.answer j) = false) :
    ∃ u, run m { s with busy := true, seq := q } = .next u ∧ u.busy = true := by
  cases m with
  | zero => exact ⟨_, run_zero _, rfl⟩
  | succ m =>
    obtain ⟨u, hrun, hbusy⟩ :=
      busy_while_not_ready (s := s.writeClock false) (q := { q with phase := .poll }) (hw.of_host_eq rfl) rfl
        fun j (hj : j < m) => h j (by omega)
    exact ⟨u, by rw [Nat.add_comm, run_trans (run_lowWrite hw hq ho) hrun], hbusy⟩

/-- Settles O22: SETGAIN is accepted into its sequence with `GAIN` already written, so the sequence runs from the state
with the new count. -/
theorem setgainSetsTheModeAndFlushes : Obligations.SetgainSetsTheModeAndFlushes := by
  refine ⟨fun _ => rfl, fun s g gain ⟨hb, _⟩ hw hg hgain => ?_⟩
  rw [← gainAfter_eq] at hgain
  subst hgain
  refine ⟨_, exec_setgain g hb, fun inp hwf hears => ?_, fun m h => ?_⟩
  · exact gainSequence_completes (s := { s with gain := gainAfter g s.gain }) hb (hw.of_host_eq rfl)
      (gainAfter_ne_zero g hg) rfl rfl rfl hwf hears
  · exact gainSequence_busy_while_not_ready (s := { s with gain := gainAfter g s.gain }) (hw.of_host_eq rfl) rfl rfl h

end Sys2Proof.Machine

namespace Sys2Proof.Machine

/-! ### Power and query: commands without a frame (42_power_query.md R89, R90, R92) -/

/-- A legal channel count is less than `2^32` (R5), so a 32-bit register holds it exactly. -/
theorem Config.toNat_n_of_wellFormed {c : Config} (h : c.wellFormed = true) : (BitVec.ofNat 32 c.n).toNat = c.n := by
  simp only [Config.wellFormed, Config.channelsOk, Bool.and_eq_true, decide_eq_true_eq] at h
  obtain ⟨⟨⟨⟨-, hlt⟩, -⟩, -⟩, -⟩ := h
  rw [BitVec.toNat_ofNat, Nat.mod_eq_of_lt hlt]

/-- From `PD0` with `OPL` = PWRDN: the LOW write, the HIGH write, then `FIN` (R72, R89). -/
theorem pwrdnSequence_completes {s : State} {q : Seq} (hb : s.busy = false) (hw : s.HostWaits) (hq : q.phase = .pd0)
    (ho : q.opl = 6) :
    run 3 { s with busy := true, seq := q } = .next
      { s with sck := true, trace := s.trace ++ [.ck false, .ck true], seq := { q with phase := .idle } } := by
  have low := run_snoc_micro (run_zero { s with busy := true, seq := q }) rfl (hw.of_host_eq rfl)
    (micro_pd0_pwrdn hq ho)
  have high := run_snoc_micro low rfl (hw.of_host_eq rfl) (micro_pd1 rfl)
  rw [run_fin high rfl (hw.of_host_eq rfl) rfl, hb]
  simp

/-- From `PD0` with `OPL` = PWRUP: the LOW write, then `FIN` (R72, R90). -/
theorem pwrupSequence_completes {s : State} {q : Seq} (hb : s.busy = false) (hw : s.HostWaits) (hq : q.phase = .pd0)
    (ho : q.opl = 5) :
    run 2 { s with busy := true, seq := q } = .next
      { s with sck := false, trace := s.trace ++ [.ck false], seq := { q with phase := .idle } } := by
  have low := run_snoc_micro (run_zero { s with busy := true, seq := q }) rfl (hw.of_host_eq rfl)
    (micro_pd0_pwrup hq ho)
  rw [run_fin low rfl (hw.of_host_eq rfl) rfl, hb]

/-- From `FIN`, where only `BUSY` is left to clear (R72). -/
theorem finSequence_completes {s : State} {q : Seq} (hb : s.busy = false) (hw : s.HostWaits) (hq : q.phase = .fin) :
    run 1 { s with busy := true, seq := q } = .next { s with seq := { q with phase := .idle } } := by
  rw [run_fin (run_zero { s with busy := true, seq := q }) rfl (hw.of_host_eq rfl) hq, hb]

/-- Settles O23: PWRDN is accepted into its sequence of two clock writes. -/
theorem pwrdnDrivesLowThenHigh : Obligations.PwrdnDrivesLowThenHigh :=
  ⟨by decide, fun _ ⟨hb, _⟩ hw => ⟨_, _, exec_pwrdn hb, by rfl, pwrdnSequence_completes hb hw rfl rfl⟩⟩

/-- Settles O24: PWRUP is accepted into its sequence of one clock write. -/
theorem pwrupDrivesLow : Obligations.PwrupDrivesLow :=
  ⟨by decide, fun _ ⟨hb, _⟩ hw => ⟨_, _, exec_pwrup hb, by rfl, pwrupSequence_completes hb hw rfl rfl⟩⟩

/-- Settles O25: CHCNT's acceptance has written `RSP` already, so `FIN` alone is left. -/
theorem chcntAnswersTheChannelCount : Obligations.ChcntAnswersTheChannelCount :=
  ⟨by decide, fun s ⟨hb, _⟩ hw => ⟨_, _, exec_chcnt hb, by rfl,
    finSequence_completes (s := { s with rsp := BitVec.ofNat 32 s.cfg.n }) hb (hw.of_host_eq rfl) rfl,
    Config.toNat_n_of_wellFormed⟩⟩

end Sys2Proof.Machine

namespace Sys2Proof.Machine

/-! ### READ and READ.F: commands of one frame (43_calibration.md R97, R98) -/

/-- The difference of two words in the range of a raw sample is the integer difference (R97). -/
theorem toInt_sub_of_rawRange {a b : Word} (ha : RawRange a) (hb : RawRange b) :
    (a - b).toInt = a.toInt - b.toInt := by
  obtain ⟨halo, hahi⟩ := ha
  obtain ⟨hblo, hbhi⟩ := hb
  rw [BitVec.toInt_sub]
  apply Int.bmod_eq_of_le <;> norm_num at * <;> omega

/-- The same change in every lane, after a change that knows the channel. -/
theorem map_mapIdx {α β γ : Type} (f : Nat → α → β) (g : β → γ) (xs : List α) :
    (xs.mapIdx f).map g = xs.mapIdx fun i x => g (f i x) :=
  List.ext_getElem (by simp) (by simp)

/-- The subtraction, after the raw samples (R97). -/
theorem map_correct_sampledLanes (data : List Sample) (lanes : List Lane) :
    (sampledLanes data lanes).map Lane.correct =
      lanes.mapIdx fun i l => { l with acc := rawSample data i - l.offset } := by
  rw [sampledLanes, map_mapIdx]
  rfl

/-- From the acceptance of READ: a sampling frame, the row `SUB`, then `FIN` (R72, R97). -/
theorem readSequence_completes {s : State} {q : Seq} {inp : FrameInput} (hb : s.busy = false) (hw : s.HostWaits)
    (hg : s.gain ≠ 0) (hq : q.phase = .poll) (hs : q.smpl = true) (ho : q.opl = 2)
    (hwf : inp.wellFormed s.cfg.n true = true) (hears : s.Hears (inp.answers s.cfg.n)) :
    run (inp.samplingSteps s.gain + 2) { s with busy := true, seq := q } = .next
      { s with
        lanes := s.lanes.mapIdx fun i l => { l with acc := rawSample inp.data i - l.offset }
        sck   := false
        env   := s.env.advance (inp.answers s.cfg.n).length
        trace := s.trace ++ inp.samplingTrace s.cfg.n s.gain
        seq   := { q with k := 23, g := s.gain, phase := .idle } } := by
  have frame := run_samplingFrame (s := { s with busy := true, seq := q }) rfl (hw.of_host_eq rfl) hq hs hg hwf hears
  have sub := run_snoc_micro frame rfl (hw.of_host_eq rfl) (micro_sub (if_pos ho))
  rw [run_fin sub rfl (hw.of_host_eq rfl) rfl, map_correct_sampledLanes, hb]

/-- Settles O26: READ is accepted into its sequence, and both operands of the subtraction are raw samples. -/
theorem readSubtractsTheOffsets : Obligations.ReadSubtractsTheOffsets := by
  refine ⟨by decide, fun s ⟨hb, _⟩ hw hg => ⟨_, exec_read hb, fun inp hwf hears => ?_, fun m h => ?_⟩⟩
  · exact ⟨_, rfl, readSequence_completes hb hw hg rfl rfl rfl hwf hears,
      fun i _ _ hl => toInt_sub_of_rawRange (rawRange_rawSample inp.data i) hl⟩
  · exact busy_while_not_ready hw rfl h

/-- Settles O28: READ.F is accepted into a flush frame, as READRAW.F is. -/
theorem readFIsAPlainFlush : Obligations.ReadFIsAPlainFlush := by
  refine ⟨by decide, fun s ⟨hb, _⟩ hw hg => ⟨_, exec_readF hb, fun inp hwf hears => ?_, fun m h => ?_⟩⟩
  · exact flushCommand_completes hb hw hg rfl rfl hwf hears
  · exact busy_while_not_ready hw rfl h

end Sys2Proof.Machine

namespace Sys2Proof.Machine

/-! ### TARE of no samples (43_calibration.md R106) -/

/-- Settles O11: the frame of a TARE of no samples decodes, and its meaning is the refusal (R106). -/
theorem tareOfZeroSamplesIsRefused : Obligations.TareOfZeroSamplesIsRefused := by
  refine fun s k hb => ⟨exec_tare_zero k hb, fun later hp => ?_⟩
  have hd : decode (encode (.tare 0 k)) = .ok (.tare 0 k) := decode_eq_ok_iff.mpr (by simp)
  rw [step_of_presents hb hp, present_of_decode (s := { s with host := later }) hb hd]
  exact exec_tare_zero k hb

/-! ### The recorded samples of a TARE (43_calibration.md R100 to R102) -/

theorem leastSample_mem_and_le {xs : List Int} (h : xs ≠ []) :
    leastSample xs ∈ xs ∧ ∀ x ∈ xs, leastSample xs ≤ x := by
  obtain ⟨a, ha⟩ := Option.isSome_iff_exists.mp (List.isSome_min?_iff.mpr h)
  rw [leastSample, ha]
  exact List.min?_eq_some_iff.mp ha

theorem greatestSample_mem_and_ge {xs : List Int} (h : xs ≠ []) :
    greatestSample xs ∈ xs ∧ ∀ x ∈ xs, x ≤ greatestSample xs := by
  obtain ⟨a, ha⟩ := Option.isSome_iff_exists.mp (List.isSome_max?_iff.mpr h)
  rw [greatestSample, ha]
  exact List.max?_eq_some_iff.mp ha

theorem leastSample_append {xs : List Int} (h : xs ≠ []) (x : Int) :
    leastSample (xs ++ [x]) = min (leastSample xs) x := by
  cases xs with
  | nil => contradiction
  | cons y ys => simp only [leastSample, List.cons_append, List.min?_cons', List.foldl_append]; rfl

theorem greatestSample_append {xs : List Int} (h : xs ≠ []) (x : Int) :
    greatestSample (xs ++ [x]) = max (greatestSample xs) x := by
  cases xs with
  | nil => contradiction
  | cons y ys => simp only [greatestSample, List.cons_append, List.max?_cons', List.foldl_append]; rfl

@[simp] theorem length_tareSamples (frames : List FrameInput) (i : Nat) :
    (tareSamples frames i).length = frames.length := by
  simp [tareSamples]

@[simp] theorem tareSamples_append (frames : List FrameInput) (inp : FrameInput) (i : Nat) :
    tareSamples (frames ++ [inp]) i = tareSamples frames i ++ [(rawSample inp.data i).toInt] := by
  simp [tareSamples]

theorem tareSamples_ne_nil {frames : List FrameInput} (h : frames ≠ []) (i : Nat) : tareSamples frames i ≠ [] := by
  simpa [tareSamples] using h

theorem leastSample_mem_tareSamples {frames : List FrameInput} (h : frames ≠ []) (i : Nat) :
    leastSample (tareSamples frames i) ∈ tareSamples frames i :=
  (leastSample_mem_and_le (tareSamples_ne_nil h i)).1

theorem greatestSample_mem_tareSamples {frames : List FrameInput} (h : frames ≠ []) (i : Nat) :
    greatestSample (tareSamples frames i) ∈ tareSamples frames i :=
  (greatestSample_mem_and_ge (tareSamples_ne_nil h i)).1

/-- Every recorded sample is a raw sample (R15). -/
theorem rawRange_of_mem_tareSamples {frames : List FrameInput} {i : Nat} {x : Int} (h : x ∈ tareSamples frames i) :
    ∃ w : Word, RawRange w ∧ w.toInt = x := by
  obtain ⟨inp, -, rfl⟩ := List.mem_map.mp h
  exact ⟨_, rawRange_rawSample inp.data i, rfl⟩

/-- A register holds a recorded sample exactly. -/
theorem toInt_ofInt_of_mem_tareSamples {frames : List FrameInput} {i : Nat} {x : Int} (h : x ∈ tareSamples frames i) :
    (BitVec.ofInt 32 x).toInt = x := by
  obtain ⟨w, -, rfl⟩ := rawRange_of_mem_tareSamples h
  rw [BitVec.ofInt_toInt]

theorem toInt_leastSample {frames : List FrameInput} (h : frames ≠ []) (i : Nat) :
    (BitVec.ofInt 32 (leastSample (tareSamples frames i))).toInt = leastSample (tareSamples frames i) :=
  toInt_ofInt_of_mem_tareSamples (leastSample_mem_tareSamples h i)

theorem toInt_greatestSample {frames : List FrameInput} (h : frames ≠ []) (i : Nat) :
    (BitVec.ofInt 32 (greatestSample (tareSamples frames i))).toInt = greatestSample (tareSamples frames i) :=
  toInt_ofInt_of_mem_tareSamples (greatestSample_mem_tareSamples h i)

/-- The 56-bit register holds the sum of fewer than `2^32` samples exactly (R23). -/
theorem toInt_sum_tareSamples {frames : List FrameInput} (h : frames.length < 2 ^ 32) (i : Nat) :
    (BitVec.ofInt 56 (tareSamples frames i).sum).toInt = (tareSamples frames i).sum := by
  have lo := List.card_nsmul_le_sum (tareSamples frames i) (-2 ^ 23) fun x hx => by
    obtain ⟨w, ⟨hlo, -⟩, rfl⟩ := rawRange_of_mem_tareSamples hx
    exact hlo
  have hi := List.sum_le_card_nsmul (tareSamples frames i) (2 ^ 23 - 1) fun x hx => by
    obtain ⟨w, ⟨-, hhi⟩, rfl⟩ := rawRange_of_mem_tareSamples hx
    exact hhi
  rw [length_tareSamples, nsmul_eq_mul] at lo hi
  apply BitVec.toInt_ofInt_eq_self <;> norm_num at * <;> omega

theorem attemptRejected_iff {t k : Word} {n : Nat} {frames : List FrameInput} :
    attemptRejected t k n frames = true ↔
      k ≠ 0 ∧ 1 < t.toNat ∧ ∃ i < n,
        (k.toNat : Int) < greatestSample (tareSamples frames i) - leastSample (tareSamples frames i) := by
  simp [attemptRejected, and_assoc]

/-- Two raw samples differ by at most `2^24 - 1`, so no greater tolerance is ever exceeded (R102). -/
theorem attemptRejected_of_greatest_tolerance {t k : Word} {frames : List FrameInput} (hf : frames ≠ []) (n : Nat)
    (hk : 2 ^ 24 - 1 ≤ k.toNat) : attemptRejected t k n frames = false := by
  rw [Bool.eq_false_iff, Ne, attemptRejected_iff]
  rintro ⟨-, -, i, -, hspread⟩
  obtain ⟨w, ⟨hlo, -⟩, hw⟩ := rawRange_of_mem_tareSamples (leastSample_mem_tareSamples hf i)
  obtain ⟨v, ⟨-, hhi⟩, hv⟩ := rawRange_of_mem_tareSamples (greatestSample_mem_tareSamples hf i)
  omega

/-! ### The lanes of a TARE -/

/-- The lanes of a TARE in progress: as they were before the first frame, afterwards the last raw sample and the
statistics. -/
def recordedLanes (frames : List FrameInput) (lanes : List Lane) : List Lane :=
  if frames.isEmpty then lanes else taredLanes true frames lanes

theorem recordedLanes_of_ne_nil {frames : List FrameInput} (h : frames ≠ []) (lanes : List Lane) :
    recordedLanes frames lanes = taredLanes true frames lanes :=
  if_neg fun he => h (List.isEmpty_iff.mp he)

/-- One step of the running minimum (R101). -/
theorem signedMin_leastSample {frames : List FrameInput} (h : frames ≠ []) (inp : FrameInput) (i : Nat) :
    signedMin (BitVec.ofInt 32 (leastSample (tareSamples frames i))) (rawSample inp.data i) =
      BitVec.ofInt 32 (leastSample (tareSamples (frames ++ [inp]) i)) := by
  rw [← BitVec.ofInt_toInt (x := signedMin _ _), signedMin_toInt, toInt_leastSample h, tareSamples_append,
    leastSample_append (tareSamples_ne_nil h i)]

/-- One step of the running maximum (R101). -/
theorem signedMax_greatestSample {frames : List FrameInput} (h : frames ≠ []) (inp : FrameInput) (i : Nat) :
    signedMax (BitVec.ofInt 32 (greatestSample (tareSamples frames i))) (rawSample inp.data i) =
      BitVec.ofInt 32 (greatestSample (tareSamples (frames ++ [inp]) i)) := by
  rw [← BitVec.ofInt_toInt (x := signedMax _ _), signedMax_toInt, toInt_greatestSample h, tareSamples_append,
    greatestSample_append (tareSamples_ne_nil h i)]

/-- The row `STAT` records one more frame (R101). -/
theorem map_accumulate_sampledLanes (frames : List FrameInput) (inp : FrameInput) (lanes : List Lane) :
    (sampledLanes inp.data (recordedLanes frames lanes)).map (fun l => l.accumulate frames.isEmpty) =
      recordedLanes (frames ++ [inp]) lanes := by
  rw [recordedLanes_of_ne_nil (frames := frames ++ [inp]) (by simp), sampledLanes, map_mapIdx]
  by_cases h : frames = []
  · subst h
    simp [recordedLanes, taredLanes, tareSamples, leastSample, greatestSample, BitVec.signExtend]
  · rw [recordedLanes_of_ne_nil h, List.isEmpty_eq_false_iff.mpr h]
    simp [taredLanes, signedMin_leastSample h, signedMax_greatestSample h, BitVec.ofInt_add, BitVec.signExtend,
      Function.comp_def]

/-- The verdict of the row `JUDGE` on the recorded statistics is that on the samples (R102). -/
theorem tareRejects_taredLanes {frames : List FrameInput} (hf : frames ≠ []) (t k : Word) (lanes : List Lane) :
    tareRejects t k (taredLanes true frames lanes) = attemptRejected t k lanes.length frames := by
  rw [Bool.eq_iff_iff, tareRejects_iff, attemptRejected_iff]
  simp [taredLanes, List.mem_mapIdx, toInt_leastSample hf, toInt_greatestSample hf]

/-- The commit of the row `JUDGE` makes every offset the mean of the samples (R103). -/
theorem map_commit_taredLanes {frames : List FrameInput} {t : Word} (hl : frames.length = t.toNat)
    (lanes : List Lane) :
    (taredLanes true frames lanes).map (fun l => l.commit t) = taredLanes false frames lanes := by
  have hmean (i : Nat) : meanWord (BitVec.ofInt 56 (tareSamples frames i).sum) t =
      BitVec.ofInt 32 (meanSample (tareSamples frames i)) := by
    rw [meanWord, meanSample, toInt_sum_tareSamples (hl.trans_lt t.isLt), length_tareSamples, hl]
  simp [taredLanes, map_mapIdx, Lane.commit, hmean]

/-! ### The run of a TARE -/

@[simp] theorem tareAnswers_append (n : Nat) (frames : List FrameInput) (inp : FrameInput) :
    tareAnswers n (frames ++ [inp]) = tareAnswers n frames ++ inp.answers n := by
  simp [tareAnswers]

@[simp] theorem tareTrace_append (n : Nat) (gain : BitVec 2) (frames : List FrameInput) (inp : FrameInput) :
    tareTrace n gain (frames ++ [inp]) = tareTrace n gain frames ++ inp.samplingTrace n gain := by
  simp [tareTrace]

/-- `s`, which accepted TARE `t, k`, when `frames` are taken and recorded. -/
def State.tareTaken (s : State) (t k : Word) (frames : List FrameInput) : State :=
  { s with
    lanes := recordedLanes frames s.lanes
    sck   := frames.isEmpty && s.sck
    busy  := true
    env   := s.env.advance (tareAnswers s.cfg.n frames).length
    trace := s.trace ++ tareTrace s.cfg.n s.gain frames
    seq   :=
      { phase := if frames.length < t.toNat then .poll else .judge
        k     := if frames.isEmpty then s.seq.k else 23
        g     := if frames.isEmpty then s.seq.g else s.gain
        tc    := BitVec.ofNat 32 frames.length
        smpl  := true
        opl   := 3
        al    := t
        bl    := k } }

theorem toNat_pos_of_ne_zero {t : Word} (ht : t ≠ 0) : 0 < t.toNat := by
  bv_omega

theorem ne_nil_of_length_eq_toNat {t : Word} {frames : List FrameInput} (ht : t ≠ 0) (hl : frames.length = t.toNat) :
    frames ≠ [] :=
  List.ne_nil_of_length_pos (hl ▸ toNat_pos_of_ne_zero ht)

theorem exec_tare_eq_tareTaken {s : State} {t : Word} (k : Word) (hb : s.busy = false) (ht : t ≠ 0) :
    exec (.tare t k) s = .next (s.tareTaken t k []) := by
  rw [exec_tare k hb ht]
  simp [State.tareTaken, recordedLanes, tareAnswers, tareTrace, toNat_pos_of_ne_zero ht]

/-- The next frame of a TARE: a sampling frame, then its row `STAT`. Fewer than `T` frames are taken, so the 32-bit `TC`
counts them exactly: it is 0 for the first only, and its comparison with `T` is that of the numbers. -/
theorem run_tareFrame {s : State} {t k : Word} {taken : List FrameInput} {inp : FrameInput} (hw : s.HostWaits)
    (hg : s.gain ≠ 0) (hl : taken.length < t.toNat) (hwf : inp.wellFormed s.cfg.n true = true)
    (hears : (s.tareTaken t k taken).Hears (inp.answers s.cfg.n)) :
    run (inp.samplingSteps s.gain + 1) (s.tareTaken t k taken) = .next (s.tareTaken t k (taken ++ [inp])) := by
  have frame := run_samplingFrame (s := s.tareTaken t k taken) rfl (hw.of_host_eq rfl) (if_pos hl) rfl hg hwf hears
  have stat := run_snoc_micro frame rfl (hw.of_host_eq rfl) (micro_stat rfl)
  have hfirst : (BitVec.ofNat 32 taken.length == 0#32) = taken.isEmpty := by
    rw [Bool.eq_iff_iff, beq_iff_eq, List.isEmpty_iff, ← List.length_eq_zero_iff]
    bv_omega
  have hmore : BitVec.ofNat 32 taken.length + 1#32 < t ↔ taken.length + 1 < t.toNat := by
    bv_omega
  refine stat.trans ?_
  simp [State.tareTaken, hfirst, hmore, map_accumulate_sampledLanes, BitVec.ofNat_add]

/-- The first frames of a TARE, by induction on their number (R100). -/
theorem run_tareFrames {s : State} {t k : Word} {taken : List FrameInput} (hw : s.HostWaits) (hg : s.gain ≠ 0)
    (hl : taken.length ≤ t.toNat) (hwf : ∀ inp ∈ taken, inp.wellFormed s.cfg.n true = true)
    (hears : s.Hears (tareAnswers s.cfg.n taken)) :
    run (taken.map fun inp => inp.samplingSteps s.gain + 1).sum (s.tareTaken t k []) =
      .next (s.tareTaken t k taken) := by
  induction taken using List.reverseRecOn with
  | nil => exact run_zero _
  | append_singleton taken inp ih =>
    simp only [List.length_append, List.length_singleton] at hl
    rw [tareAnswers_append] at hears
    rw [List.map_append, List.sum_append, List.map_singleton, List.sum_singleton]
    refine run_trans (ih (by omega) (fun x hx => hwf x (List.mem_append_left _ hx)) hears.left) ?_
    exact run_tareFrame hw hg hl (hwf inp (by simp)) (hears.right rfl rfl)

/-- `s` after TARE `t, k` over `frames` (R100, R103, R104). -/
def State.tared (s : State) (t k : Word) (frames : List FrameInput) : State :=
  { s with
    lanes := taredLanes (attemptRejected t k s.cfg.n frames) frames s.lanes
    sck   := false
    rsp   := if attemptRejected t k s.cfg.n frames then 0 else 1
    env   := s.env.advance (tareAnswers s.cfg.n frames).length
    trace := s.trace ++ tareTrace s.cfg.n s.gain frames
    seq   := { (s.tareTaken t k frames).seq with phase := .idle } }

theorem State.tared_rsp_of_accepted {s : State} {t k : Word} {frames : List FrameInput}
    (h : attemptRejected t k s.cfg.n frames = false) : (s.tared t k frames).rsp = 1 := by
  simp [State.tared, h]

theorem State.tared_lanes_of_accepted {s : State} {t k : Word} {frames : List FrameInput}
    (h : attemptRejected t k s.cfg.n frames = false) :
    (s.tared t k frames).lanes = taredLanes false frames s.lanes := by
  simp [State.tared, h]

/-- The verdict of a TARE whose `T` frames are taken, then `FIN` (R102 to R104). -/
theorem run_tareVerdict {s : State} {t k : Word} {frames : List FrameInput} (hb : s.busy = false) (hw : s.HostWaits)
    (hn : s.lanes.length = s.cfg.n) (ht : t ≠ 0) (hl : frames.length = t.toNat) :
    run 2 (s.tareTaken t k frames) = .next (s.tared t k frames) := by
  have hne := ne_nil_of_length_eq_toNat ht hl
  have hlanes : (s.tareTaken t k frames).lanes = taredLanes true frames s.lanes := recordedLanes_of_ne_nil hne _
  have hsck : (s.tareTaken t k frames).sck = false := by simp [State.tareTaken, hne]
  have hjudge : (s.tareTaken t k frames).seq.phase = .judge := if_neg (by omega)
  have hrej : tareRejects t k (s.tareTaken t k frames).lanes = attemptRejected t k s.cfg.n frames := by
    rw [hlanes, tareRejects_taredLanes hne, hn]
  unfold State.tared
  cases h : attemptRejected t k s.cfg.n frames with
  | true =>
    have judge := run_snoc_micro (run_zero (s.tareTaken t k frames)) rfl (hw.of_host_eq rfl)
      (micro_judge_reject hjudge ht (hrej.trans h))
    rw [run_fin judge rfl (hw.of_host_eq rfl) rfl, hlanes, hsck, hb]
    rfl
  | false =>
    have judge := run_snoc_micro (run_zero (s.tareTaken t k frames)) rfl (hw.of_host_eq rfl)
      (micro_judge_commit hjudge ht (hrej.trans h))
    have hcommit : (s.tareTaken t k frames).lanes.map (fun l => l.commit (s.tareTaken t k frames).seq.al) =
        taredLanes false frames s.lanes := by
      rw [hlanes]
      exact map_commit_taredLanes hl s.lanes
    rw [run_fin judge rfl (hw.of_host_eq rfl) rfl, hcommit, hsck, hb]
    rfl

/-- A TARE of `T` frames, from its acceptance to `IDLE`. -/
theorem tareSequence_completes {s : State} {t k : Word} {frames : List FrameInput} (hb : s.busy = false)
    (hw : s.HostWaits) (hg : s.gain ≠ 0) (hn : s.lanes.length = s.cfg.n) (ht : t ≠ 0) (hl : frames.length = t.toNat)
    (hwf : ∀ inp ∈ frames, inp.wellFormed s.cfg.n true = true) (hears : s.Hears (tareAnswers s.cfg.n frames)) :
    run (tareSteps s.gain frames) (s.tareTaken t k []) = .next (s.tared t k frames) :=
  run_trans (run_tareFrames hw hg hl.le hwf hears) (run_tareVerdict hb hw hn ht hl)

/-- In each of its waits a TARE is busy as long as ENV does not answer `0^N` (R62, R100). -/
theorem tareSequence_busy_while_not_ready {s : State} {t k : Word} {taken : List FrameInput} {m : Nat}
    (hw : s.HostWaits) (hg : s.gain ≠ 0) (hl : taken.length < t.toNat)
    (hwf : ∀ inp ∈ taken, inp.wellFormed s.cfg.n true = true) (hears : s.Hears (tareAnswers s.cfg.n taken))
    (h : ∀ j, j < m → ready (s.answer ((tareAnswers s.cfg.n taken).length + j)) = false) :
    ∃ v, run ((taken.map fun inp => inp.samplingSteps s.gain + 1).sum + m) (s.tareTaken t k []) = .next v ∧
      v.busy = true := by
  have hwait (j : Nat) (hj : j < m) : ready ((s.tareTaken t k taken).answer j) = false := by
    rw [s.answer_advance _ j (s.tareTaken t k taken) rfl rfl]
    exact h j hj
  exact ⟨_, run_trans (run_tareFrames hw hg hl.le hwf hears)
    (readinessWaitHasNoBound (s.tareTaken t k taken) m rfl (hw.of_host_eq rfl) (if_pos hl) hwait), rfl⟩

/-- Settles O29: TARE is accepted with no frame taken, and its sequence runs from there. -/
theorem tareCommitsTheMeansOrRejects : Obligations.TareCommitsTheMeansOrRejects := by
  refine ⟨fun _ _ => rfl, fun s k => exec_tare_zero k, fun s t k ⟨hb, _⟩ hw hg hn ht =>
    ⟨_, exec_tare_eq_tareTaken k hb ht, fun frames hl hwf hears => ⟨fun hk => ?_, ?_⟩,
      fun taken m hl hwf hears h => ?_⟩⟩
  · exact attemptRejected_of_greatest_tolerance (ne_nil_of_length_eq_toNat ht hl) s.cfg.n hk
  · exact ⟨_, rfl, tareSequence_completes hb hw hg hn ht hl hwf hears⟩
  · exact tareSequence_busy_while_not_ready hw hg hl hwf hears h

end Sys2Proof.Machine

namespace Sys2Proof.Machine

/-! ### A TARE that cannot be rejected, and the offsets of constant samples (43_calibration.md R99, R105) -/

/-- Neither one sample nor a tolerance of 0 is ever judged (R105). -/
theorem attemptRejected_of_oneSample_or_noTolerance {t k : Word} (h : t = 1 ∨ k = 0) (n : Nat)
    (frames : List FrameInput) : attemptRejected t k n frames = false := by
  rcases h with rfl | rfl <;> simp [attemptRejected]

theorem tareSamples_of_const {frames : List FrameInput} {i : Nat} {w : Word}
    (h : ∀ inp ∈ frames, rawSample inp.data i = w) : tareSamples frames i = List.replicate frames.length w.toInt :=
  List.map_eq_replicate_iff.mpr fun inp hinp => congrArg BitVec.toInt (h inp hinp)

/-- Constant samples have no spread, which no tolerance rejects. -/
theorem attemptRejected_of_const {frames : List FrameInput} {m : Nat → Word} {n : Nat} (hf : frames ≠ [])
    (h : ∀ inp ∈ frames, ∀ i, i < n → rawSample inp.data i = m i) (t k : Word) :
    attemptRejected t k n frames = false := by
  rw [Bool.eq_false_iff, Ne, attemptRejected_iff]
  rintro ⟨-, -, i, hi, hspread⟩
  have hconst := tareSamples_of_const fun inp hinp => h inp hinp i hi
  have hgreatest := greatestSample_mem_tareSamples hf i
  have hleast := leastSample_mem_tareSamples hf i
  rw [hconst] at hgreatest hleast
  rw [hconst, List.eq_of_mem_replicate hgreatest, List.eq_of_mem_replicate hleast] at hspread
  omega

/-- The mean of constant samples is that sample, exactly. -/
theorem meanSample_replicate {n : Nat} (hn : n ≠ 0) (x : Int) : meanSample (List.replicate n x) = x := by
  rw [meanSample, List.sum_replicate, List.length_replicate, nsmul_eq_mul]
  exact Int.mul_tdiv_cancel_left x (Int.natCast_ne_zero.mpr hn)

/-- The offsets committed after constant samples are those samples. -/
theorem map_offset_taredLanes_of_const {frames : List FrameInput} {m : Nat → Word} {lanes : List Lane}
    (hf : frames ≠ []) (h : ∀ inp ∈ frames, ∀ i, i < lanes.length → rawSample inp.data i = m i) :
    (taredLanes false frames lanes).map Lane.offset = lanes.mapIdx fun i _ => m i := by
  rw [taredLanes, map_mapIdx, List.mapIdx_eq_mapIdx_iff]
  intro i hi
  have hconst := tareSamples_of_const fun inp hinp => h inp hinp i hi
  simp [hconst, meanSample_replicate (List.length_pos_iff.mpr hf).ne', BitVec.ofInt_toInt]

/-- Settles O33: the attempt is not judged, and one sample is its own mean. -/
theorem tareWithOneSampleOrNoToleranceIsAccepted : Obligations.TareWithOneSampleOrNoToleranceIsAccepted := by
  intro s t k frames ⟨hb, _⟩ hw hg hn ht hpass hl hwf hears
  have hrej := attemptRejected_of_oneSample_or_noTolerance hpass s.cfg.n frames
  refine ⟨_, _, exec_tare_eq_tareTaken k hb ht, tareSequence_completes hb hw hg hn ht hl hwf hears, ⟨hb, rfl⟩,
    State.tared_rsp_of_accepted hrej, ?_⟩
  rintro - inp rfl
  rw [State.tared_lanes_of_accepted hrej]
  exact map_offset_taredLanes_of_const (by simp) (by simp)

/-- Settles O34: constant samples pass the check and become the offsets, which the READ subtracts from themselves. -/
theorem tareThenReadOfTheSameInputGivesZero : Obligations.TareThenReadOfTheSameInputGivesZero := by
  intro s t k frames last m ⟨hb, _⟩ hw hg hn ht hl hwf hlast hm hmlast hears
  have hf := ne_nil_of_length_eq_toNat ht hl
  have hrej := attemptRejected_of_const hf hm t k
  have hlanes := State.tared_lanes_of_accepted hrej
  have hoffsets : (s.tared t k frames).lanes.map Lane.offset = s.lanes.mapIdx fun i _ => m i := by
    rw [hlanes]
    exact map_offset_taredLanes_of_const hf (hn ▸ hm)
  refine ⟨_, _, _, _, exec_tare_eq_tareTaken k hb ht, tareSequence_completes hb hw hg hn ht hl hwf hears.left,
    ⟨hb, rfl⟩, State.tared_rsp_of_accepted hrej, hoffsets, exec_read hb,
    readSequence_completes hb (hw.of_host_eq rfl) hg rfl rfl rfl hlast (hears.right rfl rfl), ⟨hb, rfl⟩, ?_⟩
  intro l hmem
  obtain ⟨i, hi, rfl⟩ := List.mem_mapIdx.mp hmem
  have hchannel : i < s.cfg.n := by simpa [hlanes, taredLanes, hn] using hi
  have hoffset : ((s.tared t k frames).lanes[i]).offset = m i := by
    have := congrArg (·[i]?) hoffsets
    simpa [hi, hchannel, hn] using this
  rw [hoffset, hmlast i hchannel, BitVec.sub_self]
  rfl

end Sys2Proof.Machine

namespace Sys2Proof

/-- A legal configuration, in the words of R5, R6 and R7 (00_scope.md). -/
theorem Config.wellFormed_iff {c : Config} :
    c.wellFormed = true ↔
      1 ≤ c.n ∧ c.n < 2 ^ 32 ∧ c.dpin.length = c.n ∧ (c.cpin :: c.dpin).Nodup ∧
        (c.initGain = 128 ∨ c.initGain = 64 ∨ c.initGain = 32) := by
  simp only [Config.wellFormed, Config.channelsOk, Config.pinsDistinct, Config.gainOk, Bool.and_eq_true,
    Bool.or_eq_true, decide_eq_true_eq, beq_iff_eq, and_assoc, or_assoc]

end Sys2Proof

namespace Sys2Proof.Machine

/-! ### The refusals (60_exceptions.md R119, R121)

Which refusal each operation raises, and when: the sequencer none, a command's meaning only that of R106, and the host
port the others. -/

/-- No row of the micro-step table refuses: the sequencer goes on or is stuck (R72). -/
theorem micro_ne_refused (s : State) (r : Refusal) : micro s ≠ .refused r := by
  unfold micro
  cases s.seq.phase with
  | idle | dhi | glo | ext | sub | stat | pd1 | fin => exact nofun
  | poll | dsmp | dlo | ghi | judge | pd0 =>
    simp only [microPoll, microDsmp, microDlo, microGhi, microJudge, microPd0]
    split_ifs <;> exact nofun

/-- An idle block refuses one command that decodes, the TARE of no samples (R106). -/
theorem exec_eq_refused_iff {i : Instr} {s : State} {r : Refusal} (hb : s.busy = false) :
    exec i s = .refused r ↔ r = .tareZeroSamples ∧ ∃ k, i = .tare 0 k := by
  cases i with
  | readraw   => simp [exec_readraw hb]
  | readrawF  => simp [exec_readrawF hb]
  | read      => simp [exec_read hb]
  | readF     => simp [exec_readF hb]
  | setgain g => simp [exec_setgain g hb]
  | pwrup     => simp [exec_pwrup hb]
  | pwrdn     => simp [exec_pwrdn hb]
  | chcnt     => simp [exec_chcnt hb]
  | tare t k  =>
    by_cases ht : t = 0
    · subst ht
      rw [exec_tare_zero k hb]
      simp [eq_comm]
    · rw [exec_tare k hb ht]
      exact iff_of_false nofun fun ⟨_, _, hi⟩ => ht (Instr.tare.inj hi).1

/-- An idle block refuses a frame that is reserved (R51) or is a TARE of no samples. -/
theorem present_eq_refused_iff {f : Frame} {s : State} {r : Refusal} (hb : s.busy = false) :
    present f s = .refused r ↔
      (∃ why, r = .illegalCommand why ∧ decode f = .error why) ∨
      (r = .tareZeroSamples ∧ ∃ k, decode f = .ok (.tare 0 k)) := by
  cases hd : decode f with
  | error why => simp [present_of_decode_error hb hd, eq_comm]
  | ok i => simp [present_of_decode hb hd, exec_eq_refused_iff hb]

/-- An idle block refuses a reset whose configuration is not legal (R133). -/
theorem beginReset_eq_refused_iff {q : ResetRequest} {s : State} {r : Refusal} (hb : s.busy = false) :
    beginReset q s = .refused r ↔ r = .badConfiguration ∧ q.cfg.wellFormed = false := by
  cases hwf : q.cfg.wellFormed <;> simp [beginReset, hb, hwf, eq_comm]

/-- What a host does that does not wait: it presents a frame or asserts a reset at once. -/
theorem State.hostWaits_or_acts (s : State) :
    s.HostWaits ∨ (∃ f later, s.host = .frameNow f :: later) ∨ ∃ q later, s.host = .resetNow q :: later := by
  unfold State.HostWaits State.hostWaits
  split <;> simp_all

/-- What a host does at an idle block: nothing, or it presents a frame, or it asserts a reset. -/
theorem State.host_nil_or_presents_or_resets (s : State) :
    s.host = [] ∨ (∃ f later, s.Presents f later) ∨ ∃ q later, s.Resets q later := by
  match h : s.host with
  | [] => exact .inl rfl
  | .frameWhenIdle f :: later => exact .inr (.inl ⟨f, later, .inl h⟩)
  | .frameNow f :: later => exact .inr (.inl ⟨f, later, .inr h⟩)
  | .resetWhenIdle q :: later => exact .inr (.inr ⟨q, later, .inl h⟩)
  | .resetNow q :: later => exact .inr (.inr ⟨q, later, .inr h⟩)

/-- `BUSY` is looked at before the frame is decoded (R121). -/
theorem step_of_busy_frameNow {s : State} {f : Frame} {later : List HostInput} (hb : s.busy = true)
    (h : s.host = .frameNow f :: later) : step s = .refused .commandWhileBusy := by
  simp [step, turn, h, present, hb]

/-- `BUSY` is looked at before the configuration of a reset (notes/assumptions/10.md). -/
theorem step_of_busy_resetNow {s : State} {q : ResetRequest} {later : List HostInput} (hb : s.busy = true)
    (h : s.host = .resetNow q :: later) : step s = .refused .resetWhileBusy := by
  simp [step, turn, h, beginReset, hb]

/-- A busy block refuses the host that does not wait, and nothing else. -/
theorem step_eq_refused_iff_of_busy {s : State} {r : Refusal} (hb : s.busy = true) :
    step s = .refused r ↔
      (r = .commandWhileBusy ∧ ∃ f later, s.host = .frameNow f :: later) ∨
      (r = .resetWhileBusy ∧ ∃ q later, s.host = .resetNow q :: later) := by
  constructor
  · intro h
    obtain hw | ⟨f, later, hf⟩ | ⟨q, later, hq⟩ := s.hostWaits_or_acts
    · rw [step_of_busy hb hw] at h
      exact absurd h (micro_ne_refused s r)
    · cases (step_of_busy_frameNow hb hf).symm.trans h
      exact .inl ⟨rfl, f, later, hf⟩
    · cases (step_of_busy_resetNow hb hq).symm.trans h
      exact .inr ⟨rfl, q, later, hq⟩
  · rintro (⟨rfl, f, later, hf⟩ | ⟨rfl, q, later, hq⟩)
    · exact step_of_busy_frameNow hb hf
    · exact step_of_busy_resetNow hb hq

/-- An idle block refuses what its port refuses: a reserved frame, a TARE of no samples, a configuration that is not
legal. -/
theorem step_eq_refused_iff_of_idle {s : State} {r : Refusal} (hb : s.busy = false) :
    step s = .refused r ↔
      (∃ why f later, r = .illegalCommand why ∧ s.Presents f later ∧ decode f = .error why) ∨
      (r = .tareZeroSamples ∧ ∃ k, s.Accepts (.tare 0 k)) ∨
      (r = .badConfiguration ∧ ∃ q later, s.Resets q later ∧ q.cfg.wellFormed = false) := by
  constructor
  · intro h
    obtain hnil | ⟨f, later, hp⟩ | ⟨q, later, hq⟩ := s.host_nil_or_presents_or_resets
    · have hm : step s = micro s := by simp [step, turn, hnil]
      exact absurd (hm.symm.trans h) (micro_ne_refused s r)
    · rw [step_of_presents hb hp] at h
      obtain ⟨why, hr, hd⟩ | ⟨hr, k, hd⟩ := (present_eq_refused_iff (s := { s with host := later }) hb).mp h
      · exact .inl ⟨why, f, later, hr, hp, hd⟩
      · exact .inr (.inl ⟨hr, k, hb, f, later, hp, hd⟩)
    · rw [step_of_resets hb hq] at h
      obtain ⟨hr, hwf⟩ := (beginReset_eq_refused_iff (s := { s with host := later }) hb).mp h
      exact .inr (.inr ⟨hr, q, later, hq, hwf⟩)
  · rintro (⟨why, f, later, hr, hp, hd⟩ | ⟨hr, k, -, f, later, hp, hd⟩ | ⟨hr, q, later, hq, hwf⟩)
    · rw [step_of_presents hb hp]
      exact (present_eq_refused_iff (s := { s with host := later }) hb).mpr (.inl ⟨why, hr, hd⟩)
    · rw [step_of_presents hb hp]
      exact (present_eq_refused_iff (s := { s with host := later }) hb).mpr (.inr ⟨hr, k, hd⟩)
    · rw [step_of_resets hb hq]
      exact (beginReset_eq_refused_iff (s := { s with host := later }) hb).mpr ⟨hr, hwf⟩

/-- A refusal ends the run: no later step clears it (R119). -/
theorem run_succ_of_refused {s : State} {r : Refusal} (k : Nat) (h : step s = .refused r) :
    run (k + 1) s = .refused r := by
  simp [run, h]

/-- Settles O10: the reasons of a busy block and those of an idle one, and a run stops at its first refusal. -/
theorem refusalsAreExactlyThese : Obligations.RefusalsAreExactlyThese := by
  refine fun s r => ⟨?_, fun h k => run_succ_of_refused k h⟩
  cases hb : s.busy with
  | true => simp [step_eq_refused_iff_of_busy hb, hb]
  | false =>
    simp only [step_eq_refused_iff_of_idle hb, ← Config.wellFormed_iff]
    simp [hb]

end Sys2Proof.Machine

namespace Sys2Proof

/-! ### The decoder and the encoder are inverse to each other (30_encoding.md R48 to R52) -/

/-- Settles O2: the fields of a command's frame are its columns of the table, and such a frame decodes to it. -/
theorem decodeInvertsEncode : Obligations.DecodeInvertsEncode := fun i =>
  decode_eq_ok_iff.mpr ⟨encode_op i, encode_a i, encode_b i⟩

/-- Settles O3: a frame that decodes has the command's columns of the table as its fields, and no bit beside them. -/
theorem encodeInvertsDecode : Obligations.EncodeInvertsDecode := by
  intro f i h
  obtain ⟨hop, ha, hb⟩ := decode_eq_ok_iff.mp h
  rw [encode, ← hop, ← ha, ← hb, Frame.mk_fields]

/-- Settles O1, by evaluating the decoder on the twelve frames. -/
theorem decodesFramesWrittenOut : Obligations.DecodesFramesWrittenOut := by
  unfold Obligations.DecodesFramesWrittenOut
  decide

end Sys2Proof

namespace Sys2Proof.Machine

/-! ### The rows of the micro-step table by name (40_acquisition.md R72) -/

/-- `MicroStep s t`: a row of R72 applies to `s` and its next state is `t`, one constructor per row and next phase, with
the row's conditions that later proofs use. What every micro-step keeps is said by cases on the names of the rows. -/
inductive MicroStep (s : State) : State → Prop
  | idle (hp : s.seq.phase = .idle) : MicroStep s s
  | pollReady (hp : s.seq.phase = .poll) : MicroStep s { s.sampled with seq := { s.seq with k := 0, phase := .dhi } }
  | pollWait (hp : s.seq.phase = .poll) : MicroStep s s.sampled
  | dhiSampling (hp : s.seq.phase = .dhi) (hs : s.seq.smpl = true) : MicroStep s ((s.writeClock true).goto .dsmp)
  | dhiPlain (hp : s.seq.phase = .dhi) : MicroStep s ((s.writeClock true).goto .dlo)
  | dsmp (hp : s.seq.phase = .dsmp) :
    MicroStep s ((s.sampled.writeLaneBits (23 - s.seq.k.toNat) s.din).goto .dlo)
  | dloMore (hp : s.seq.phase = .dlo) (hk : s.seq.k.toNat < 23) :
    MicroStep s { s.writeClock false with seq := { s.seq with k := s.seq.k + 1, phase := .dhi } }
  | dloLast (hp : s.seq.phase = .dlo) :
    MicroStep s { s.writeClock false with seq := { s.seq with g := 0, phase := .ghi } }
  | ghi (hp : s.seq.phase = .ghi) : MicroStep s ((s.writeClock true).goto .glo)
  | gloMore (hp : s.seq.phase = .glo) (hg : s.seq.g + 1 < s.gain) :
    MicroStep s { s.writeClock false with seq := { s.seq with g := s.seq.g + 1, phase := .ghi } }
  | gloExt (hp : s.seq.phase = .glo) (hs : s.seq.smpl = true) :
    MicroStep s { s.writeClock false with seq := { s.seq with g := s.seq.g + 1, phase := .ext } }
  | gloFin (hp : s.seq.phase = .glo) :
    MicroStep s { s.writeClock false with seq := { s.seq with g := s.seq.g + 1, phase := .fin } }
  | extSub (hp : s.seq.phase = .ext) (ho : s.seq.opl = 2) : MicroStep s ((s.mapLanes Lane.extend).goto .sub)
  | extStat (hp : s.seq.phase = .ext) (ho : s.seq.opl = 3) : MicroStep s ((s.mapLanes Lane.extend).goto .stat)
  | extFin (hp : s.seq.phase = .ext) : MicroStep s ((s.mapLanes Lane.extend).goto .fin)
  | sub (hp : s.seq.phase = .sub) : MicroStep s ((s.mapLanes Lane.correct).goto .fin)
  | statMore (hp : s.seq.phase = .stat) (ht : s.seq.tc + 1 < s.seq.al) :
    MicroStep s
      { s.mapLanes (fun l => l.accumulate (s.seq.tc == 0)) with
        seq := { s.seq with tc := s.seq.tc + 1, phase := .poll } }
  | statLast (hp : s.seq.phase = .stat) (ht : ¬ s.seq.tc + 1 < s.seq.al) :
    MicroStep s
      { s.mapLanes (fun l => l.accumulate (s.seq.tc == 0)) with
        seq := { s.seq with tc := s.seq.tc + 1, phase := .judge } }
  | judgeReject (hp : s.seq.phase = .judge) : MicroStep s ({ s with rsp := 0 }.goto .fin)
  | judgeCommit (hp : s.seq.phase = .judge) (ha : s.seq.al ≠ 0) :
    MicroStep s ({ s.mapLanes (fun l => l.commit s.seq.al) with rsp := 1 }.goto .fin)
  | pd0Pwrdn (hp : s.seq.phase = .pd0) (ho : s.seq.opl = 6) : MicroStep s ((s.writeClock false).goto .pd1)
  | pd0Pwrup (hp : s.seq.phase = .pd0) : MicroStep s ((s.writeClock false).goto .fin)
  | pd0Setgain (hp : s.seq.phase = .pd0) (ho : s.seq.opl = 4) : MicroStep s ((s.writeClock false).goto .poll)
  | pd1 (hp : s.seq.phase = .pd1) : MicroStep s ((s.writeClock true).goto .fin)
  | fin (hp : s.seq.phase = .fin) : MicroStep s ({ s with busy := false }.goto .idle)

/-- Every next state of the sequencer comes from a row. -/
theorem microStep_of_micro {s t : State} (h : micro s = .next t) : MicroStep s t := by
  rcases micro_cases h with ⟨hp, rfl⟩ | ⟨hp, -, rfl⟩ | ⟨hp, -, rfl⟩ | ⟨hp, rfl⟩ | ⟨hp, -, rfl⟩ | ⟨hp, hk, rfl⟩ |
    ⟨hp, -, rfl⟩ | ⟨hp, -, rfl⟩ | ⟨hp, rfl⟩ | ⟨hp, rfl⟩ | ⟨hp, rfl⟩ | ⟨hp, rfl⟩ | ⟨hp, -, -, rfl⟩ |
    ⟨hp, ha, -, rfl⟩ | ⟨_, hp, ho, rfl⟩ | ⟨hp, rfl⟩ | ⟨hp, rfl⟩
  · exact .idle hp
  · exact .pollReady hp
  · exact .pollWait hp
  · split
    · exact .dhiSampling hp ‹_›
    · exact .dhiPlain hp
  · exact .dsmp hp
  · exact .dloMore hp hk
  · exact .dloLast hp
  · exact .ghi hp
  · split
    · exact .gloMore hp ‹_›
    · unfold Seq.afterGain
      split
      · exact .gloExt hp ‹_›
      · exact .gloFin hp
  · unfold Seq.afterExt
    split_ifs
    · exact .extSub hp ‹_›
    · exact .extStat hp ‹_›
    · exact .extFin hp
  · exact .sub hp
  · split
    · exact .statMore hp ‹_›
    · exact .statLast hp ‹_›
  · exact .judgeReject hp
  · exact .judgeCommit hp ha
  · obtain ⟨ho, rfl⟩ | ⟨-, rfl⟩ | ⟨ho, rfl⟩ := ho
    · exact .pd0Pwrdn hp ho
    · exact .pd0Pwrup hp
    · exact .pd0Setgain hp ho
  · exact .pd1 hp
  · exact .fin hp

end Sys2Proof.Machine

namespace Sys2Proof.Machine

/-! ### The statistics of one lane (43_calibration.md R101) -/

/-- After the first sample all three statistics are that sample. -/
theorem Lane.accumulate_of_first (l : Lane) {tc : Word} (h : tc = 0) :
    (l.accumulate (tc == 0)).min = l.acc ∧ (l.accumulate (tc == 0)).max = l.acc ∧
      (l.accumulate (tc == 0)).sum.toInt = l.acc.toInt := by
  subst h
  exact ⟨rfl, rfl, widened_toInt l.acc⟩

/-- A later sample is taken into the least, the greatest and the sum exactly. -/
theorem Lane.accumulate_of_later {l : Lane} {tc : Word} (h : tc ≠ 0) (ht : tc.toNat + 1 < 2 ^ 32)
    (hacc : RawRange l.acc) (hs : l.StatsOk tc.toNat) :
    (l.accumulate (tc == 0)).min.toInt = Min.min l.min.toInt l.acc.toInt ∧
      (l.accumulate (tc == 0)).max.toInt = Max.max l.max.toInt l.acc.toInt ∧
      (l.accumulate (tc == 0)).sum.toInt = l.sum.toInt + l.acc.toInt := by
  rw [beq_eq_false_iff_ne.mpr h]
  exact ⟨signedMin_toInt _ _, signedMax_toInt _ _, sum_exact ht hacc hs⟩

/-- The statistics stay in order, and the sum between the two multiples that bound it. -/
theorem Lane.accumulate_statsOk {l : Lane} {tc : Word} (ht : tc.toNat + 1 < 2 ^ 32) (hacc : RawRange l.acc)
    (hs : tc ≠ 0 → l.StatsOk tc.toNat) : (l.accumulate (tc == 0)).StatsOk (tc.toNat + 1) := by
  by_cases h : tc = 0
  · obtain ⟨hmin, hmax, hsum⟩ := l.accumulate_of_first h
    unfold Lane.StatsOk
    rw [hmin, hmax, hsum, h]
    simpa using hacc
  · obtain ⟨hmin, hmax, hsum⟩ := Lane.accumulate_of_later h ht hacc (hs h)
    obtain ⟨⟨hmin1, hmin2⟩, ⟨hmax1, hmax2⟩, hle, hlo, hhi⟩ := hs h
    obtain ⟨hacc1, hacc2⟩ := hacc
    have hless := mul_le_mul_of_nonneg_left (min_le_left l.min.toInt l.acc.toInt) (Int.natCast_nonneg tc.toNat)
    have hmore := mul_le_mul_of_nonneg_left (le_max_left l.max.toInt l.acc.toInt) (Int.natCast_nonneg tc.toNat)
    unfold Lane.StatsOk RawRange
    rw [hmin, hmax, hsum, Nat.cast_succ, Int.add_mul, Int.add_mul]
    omega

/-! ### What the invariant says in the rows that do arithmetic -/

/-- In `STAT` there is a sample left to count, every `ACC` is a raw sample, and the statistics of the samples already
counted are in order. -/
theorem State.Inv.of_stat {s : State} (h : s.Inv) (hp : s.seq.phase = .stat) :
    s.seq.tc < s.seq.al ∧ ∀ l ∈ s.lanes, RawRange l.acc ∧ (s.seq.tc ≠ 0 → l.StatsOk s.seq.tc.toNat) := by
  obtain ⟨-, -, -, -, ⟨-, -, -, -, -, hopl, -⟩, ⟨-, -, htare, -⟩, -, hsamples, hstats⟩ := h
  have hin : s.seq.phase.inTare = true := by rw [hp]; rfl
  exact ⟨htare hin (hopl hp), fun l hl =>
    ⟨hsamples (.inr (.inl hp)) l hl, fun htc => hstats (.inl ⟨hin, hopl hp, htc⟩) l hl⟩⟩

/-- In `JUDGE` all `T` samples are counted and the statistics are in order. -/
theorem State.Inv.of_judge {s : State} (h : s.Inv) (hp : s.seq.phase = .judge) :
    s.seq.al ≠ 0 ∧ ∀ l ∈ s.lanes, l.StatsOk s.seq.al.toNat := by
  obtain ⟨-, -, -, -, -, ⟨-, -, -, hjudge⟩, -, -, hstats⟩ := h
  obtain ⟨htc, hal⟩ := hjudge hp
  exact ⟨hal, htc ▸ hstats (.inr hp)⟩

/-- The shift-in changes nothing of a lane but `ACC`. -/
theorem State.exists_of_mem_writeLaneBits {s : State} {b : Nat} {v : Sample} {m : Lane}
    (h : m ∈ (s.writeLaneBits b v).lanes) : ∃ l ∈ s.lanes, ∃ a, m = { l with acc := a } := by
  obtain ⟨i, hi, rfl⟩ := List.mem_mapIdx.mp h
  exact ⟨_, List.getElem_mem hi, _, rfl⟩

/-! ### The micro-steps keep the invariant, part by part -/

section
variable {s t : State}

/-- No row writes the configuration or changes the number of lanes. -/
theorem MicroStep.shapeOk (h : MicroStep s t) (hs : s.ShapeOk) : t.ShapeOk := by
  cases h with
  | dsmp | extSub | extStat | extFin | sub | statMore | statLast | judgeCommit => simpa [State.ShapeOk] using hs
  | _ => exact hs

/-- No row writes `GAIN` or `DEBUG`. -/
theorem MicroStep.modeOk (h : MicroStep s t) (hm : s.ModeOk) : t.ModeOk := by
  cases h <;> exact hm

/-- The row `FIN` clears `BUSY` as it enters `IDLE`, and no other row enters `IDLE`. -/
theorem MicroStep.busyOk (h : MicroStep s t) (hb : s.BusyOk) : t.BusyOk := by
  cases h <;> simp_all [State.BusyOk]

/-- The offsets are written by the commit only, and the means it writes are in the range of the samples. -/
theorem MicroStep.offsetsOk (h : MicroStep s t) (hi : s.Inv) : t.OffsetsOk := by
  have ⟨_, _, _, ho, _⟩ := hi
  cases h with
  | dsmp =>
    intro m hm
    obtain ⟨l, hl, _, rfl⟩ := State.exists_of_mem_writeLaneBits hm
    exact ho l hl
  | judgeCommit hp ha =>
    intro m hm
    obtain ⟨l, hl, rfl⟩ := List.mem_map.mp hm
    exact (meanWord_of_statsOk ha ((hi.of_judge hp).2 l hl)).2
  | extSub | extStat | extFin | sub | statMore | statLast => simpa [State.OffsetsOk] using ho
  | _ => exact ho

/-- No row but `IDLE` writes what is latched, and each row's next phase asks no more of it than the row itself. -/
theorem MicroStep.commandOk (h : MicroStep s t) (hc : s.CommandOk) : t.CommandOk := by
  cases h <;> simp_all [State.CommandOk, Phase.inFrame]

/-- The counters that a row advances, or whose range begins with its next phase, are `K`, `G` and `TC`. -/
theorem MicroStep.countersOk (h : MicroStep s t) (hi : s.Inv) : t.CountersOk := by
  have ⟨_, ⟨hg, _⟩, _, _, hc, hk, _⟩ := hi
  have hpulse : s.seq.k.toNat < 23 → (s.seq.k + 1).toNat ≤ 23 := fun h => by bv_omega
  have hgain : 0 < s.gain := by bv_omega
  have hlast (hp : s.seq.phase = .stat) (h : ¬ s.seq.tc + 1 < s.seq.al) : s.seq.tc + 1 = s.seq.al ∧ s.seq.al ≠ 0 := by
    have htc := (hi.of_stat hp).1
    bv_omega
  cases h <;> simp_all [State.CountersOk, State.CommandOk, Phase.inDataPulse, Phase.inGainPulse, Phase.inTare]

/-- A row writes the level its next phase requires, or passes on the level it requires itself. -/
theorem MicroStep.clockOk (h : MicroStep s t) (hk : s.ClockOk) : t.ClockOk := by
  cases h <;> simp_all [State.ClockOk]

/-- The three rows that lead to where raw samples are used are two of `EXT`, which makes them, and one of `STAT`. -/
theorem MicroStep.samplesOk (h : MicroStep s t) (hs : s.SamplesOk) : t.SamplesOk := by
  cases h with
  | idle | pollWait => exact hs
  | extSub | extStat =>
    intro _ m hm
    obtain ⟨l, -, rfl⟩ := List.mem_map.mp hm
    exact rawRange_signExtend24 l.acc
  | statLast hp => simpa [State.SamplesOk, hp] using hs
  | _ => simp [State.SamplesOk]

/-- The rows of a frame carry the statistics along, `STAT` takes one more sample into them, and the others end the TARE
or belong to another command. -/
theorem MicroStep.statsOk (h : MicroStep s t) (hi : s.Inv) : t.StatsOk := by
  have ⟨_, _, _, _, _, _, _, _, hs⟩ := hi
  have counted (hp : s.seq.phase = .stat) : ∀ m ∈ s.lanes.map fun l => l.accumulate (s.seq.tc == 0),
      m.StatsOk (s.seq.tc + 1).toNat := by
    intro m hm
    obtain ⟨htc, hlanes⟩ := hi.of_stat hp
    obtain ⟨l, hl, rfl⟩ := List.mem_map.mp hm
    obtain ⟨hacc, hstats⟩ := hlanes l hl
    have hnext : (s.seq.tc + 1).toNat = s.seq.tc.toNat + 1 := by bv_omega
    rw [hnext]
    exact Lane.accumulate_statsOk (by bv_omega) hacc hstats
  cases h with
  | idle => exact hs
  | pollReady hp | pollWait hp | dhiSampling hp | dhiPlain hp | dloMore hp | dloLast hp
  | ghi hp | gloMore hp | gloExt hp =>
    simpa [State.StatsOk, Phase.inTare, hp] using hs
  | dsmp hp =>
    intro ht m hm
    obtain ⟨l, hl, _, rfl⟩ := State.exists_of_mem_writeLaneBits hm
    exact hs (by simpa [Phase.inTare, hp] using ht) l hl
  | extStat hp =>
    intro ht m hm
    obtain ⟨l, hl, rfl⟩ := List.mem_map.mp hm
    exact hs (by simpa [Phase.inTare, hp] using ht) l hl
  | statMore hp | statLast hp => exact fun _ => counted hp
  | pd0Setgain hp ho => simp [State.StatsOk, ho]
  | _ => simp [State.StatsOk, Phase.inTare]

/-- The row of a micro-step keeps the invariant. -/
theorem MicroStep.inv (h : MicroStep s t) (hi : s.Inv) : t.Inv := by
  have ⟨hshape, hmode, hbusy, _, hcommand, _, hclock, hsamples, _⟩ := hi
  exact ⟨h.shapeOk hshape, h.modeOk hmode, h.busyOk hbusy, h.offsetsOk hi, h.commandOk hcommand, h.countersOk hi,
    h.clockOk hclock, h.samplesOk hsamples, h.statsOk hi⟩

end

/-! ### Acceptance and reset establish it (40_acquisition.md R72, 70_reset_and_hazards.md R133) -/

/-- At the start of a sequence the invariant asks nothing of the clock, the samples and the statistics, and of the
counters only that a TARE begins at 0. -/
theorem State.Inv.of_start {s : State} (hshape : s.ShapeOk) (hmode : s.ModeOk) (hoffsets : s.OffsetsOk)
    (hbusy : s.busy = true) (hstart : s.seq.phase = .poll ∨ s.seq.phase = .pd0 ∨ s.seq.phase = .fin)
    (hcommand : s.CommandOk) (htare : s.seq.opl = 3 → s.seq.tc = 0 ∧ s.seq.al ≠ 0) : s.Inv := by
  have hcounters : s.seq.opl = 3 → s.seq.tc < s.seq.al := fun ho => by
    obtain ⟨htc, hal⟩ := htare ho
    bv_omega
  have hbusyOk : s.BusyOk := ⟨fun _ => by rcases hstart with hp | hp | hp <;> simp [hp], fun _ => hbusy⟩
  have hstats : s.StatsOk := by
    rintro (⟨-, ho, htc⟩ | hp)
    · exact absurd (htare ho).1 htc
    · simp [hp] at hstart
  refine ⟨hshape, hmode, hbusyOk, hoffsets, hcommand, ⟨?_, ?_, fun _ => hcounters, ?_⟩, ⟨?_, ?_, ?_⟩, ?_, hstats⟩ <;>
    rcases hstart with hp | hp | hp <;> simp [hp, Phase.inDataPulse, Phase.inGainPulse]

/-- Settles O7, command by command; the pulse count of SETGAIN is the selector map's. -/
theorem idleBlockAcceptsEveryCommand : Obligations.IdleBlockAcceptsEveryCommand := by
  intro s i hb hi
  cases i with
  | readraw   => exact exec_readraw hb
  | readrawF  => exact exec_readrawF hb
  | read      => exact exec_read hb
  | readF     => exact exec_readF hb
  | tare t k  => exact exec_tare k hb fun ht => hi k (ht ▸ rfl)
  | setgain g => rw [exec_setgain g hb, gainAfter_eq]; rfl
  | pwrup     => exact exec_pwrup hb
  | pwrdn     => exact exec_pwrdn hb
  | chcnt     => exact exec_chcnt hb

/-- What is latched in accepting a command belongs to its first phase, and a TARE begins with no sample counted. -/
theorem exec_commandOk {i : Instr} {s t : State} (h : exec i s = .next t) :
    t.CommandOk ∧ (t.seq.opl = 3 → t.seq.tc = 0 ∧ t.seq.al ≠ 0) := by
  obtain ⟨hb, -⟩ := exec_cases h
  have hi : ∀ k, i ≠ .tare 0 k := by
    rintro k rfl
    cases (exec_tare_zero k hb).symm.trans h
  cases (idleBlockAcceptsEveryCommand s i hb hi).symm.trans h
  cases i with
  | tare n k =>
    have hn : n ≠ 0 := fun hn => hi k (hn ▸ rfl)
    simpa [State.CommandOk, Instr.opcode, Instr.operandA] using hn
  | _ => simp [State.CommandOk, Phase.inFrame, Instr.opcode]

/-- An accepted command keeps the invariant. -/
theorem inv_of_exec {i : Instr} {s t : State} (h : exec i s = .next t) (hi : s.Inv) : t.Inv := by
  obtain ⟨hshape, hmode, -, hoffsets, -⟩ := hi
  have ⟨hg, hdebug⟩ := hmode
  obtain ⟨hcommand, htare⟩ := exec_commandOk h
  have hstart := exec_phase h
  obtain ⟨-, ⟨q, -, -, rfl⟩ | ⟨q, g, -, rfl⟩ | ⟨q, -, rfl⟩⟩ := exec_cases h
  · exact .of_start hshape hmode hoffsets rfl hstart hcommand htare
  · exact .of_start hshape ⟨gainAfter_ne_zero g hg, hdebug⟩ hoffsets rfl hstart hcommand htare
  · exact .of_start hshape hmode hoffsets rfl hstart hcommand htare

@[simp] theorem length_freshLanes (n : Nat) (junk : List Lane) : (freshLanes n junk).length = n := by
  simp [freshLanes]

@[simp] theorem map_offset_freshLanes (n : Nat) (junk : List Lane) :
    (freshLanes n junk).map Lane.offset = List.replicate n 0 := by
  simp [freshLanes, List.eq_replicate_iff]

/-- The first turn of a reset with a legal configuration establishes the invariant, whatever held before. -/
theorem inv_constructed {s : State} {r : ResetRequest} (hg : s.gain ≠ 0) (hwf : r.cfg.wellFormed = true) :
    (s.constructed r).Inv := by
  have hoffsets : (s.constructed r).OffsetsOk := fun l hl => by
    have hzero : l.offset ∈ (freshLanes r.cfg.n r.junk.lanes).map Lane.offset := List.mem_map_of_mem hl
    rw [map_offset_freshLanes] at hzero
    rw [List.eq_of_mem_replicate hzero]
    decide
  have hopl : (s.constructed r).seq.opl = 4 := rfl
  have hcommand : (s.constructed r).CommandOk := by
    simp [State.CommandOk, State.constructed, Phase.inFrame, Instr.opcode]
  exact .of_start ⟨hwf, length_freshLanes ..⟩ ⟨gainAfter_ne_zero _ hg, rfl⟩ hoffsets rfl (.inr (.inl rfl)) hcommand
    (by simp [hopl])

/-- Settles O49, by what a step can do: a micro-step keeps each part of the invariant, and an acceptance and a reset
start a sequence, of which the invariant asks little. -/
theorem everyStepKeepsTheInvariant : Obligations.EveryStepKeepsTheInvariant := by
  intro s t hi h
  obtain hm | ⟨f, later, i, -, -, -, he⟩ | ⟨r, later, ⟨-, hwf, -⟩, -, rfl⟩ := step_cases h
  · exact (microStep_of_micro hm).inv hi
  · exact inv_of_exec (s := { s with host := later }) he hi
  · obtain ⟨-, ⟨hg, -⟩, -⟩ := hi
    exact inv_constructed hg hwf

/-- Settles O47, by evaluation of the state after reset. -/
theorem stateAfterReset : Obligations.StateAfterReset := by
  unfold Obligations.StateAfterReset
  decide

/-- Settles O48, by evaluation of the state after reset. -/
theorem invariantHoldsAfterReset : Obligations.InvariantHoldsAfterReset := by
  exact ⟨by decide, by decide, by decide, by decide, by decide, by decide, by decide, by decide, by decide⟩

/-! ### No fault (40_acquisition.md R72) -/

/-- Under the invariant the table has a row for the state: its four conditions hold. -/
theorem State.Inv.micro_next {s : State} (hi : s.Inv) : ∃ t, micro s = .next t := by
  have ⟨_, ⟨hgain, _⟩, _, _, hcommand, ⟨hpulse, _⟩, _⟩ := hi
  cases hp : s.seq.phase with
  | idle => exact ⟨_, micro_idle hp⟩
  | poll =>
    cases hr : ready s.din with
    | true => exact ⟨_, micro_poll_ready hp hr⟩
    | false => exact ⟨_, micro_poll_wait hp hr⟩
  | dhi => exact ⟨_, micro_dhi hp⟩
  | dsmp => exact ⟨_, micro_dsmp hp (hpulse (by rw [hp]; rfl))⟩
  | dlo =>
    by_cases hk : s.seq.k.toNat < 23
    · exact ⟨_, micro_dlo_more hp hk⟩
    · exact ⟨_, micro_dlo_last hp hk⟩
  | ghi => exact ⟨_, micro_ghi hp hgain⟩
  | glo => exact ⟨_, micro_glo hp⟩
  | ext => exact ⟨_, micro_ext hp⟩
  | sub => exact ⟨_, micro_sub hp⟩
  | stat => exact ⟨_, micro_stat hp⟩
  | judge =>
    have hal := (hi.of_judge hp).1
    cases hr : tareRejects s.seq.al s.seq.bl s.lanes with
    | true => exact ⟨_, micro_judge_reject hp hal hr⟩
    | false => exact ⟨_, micro_judge_commit hp hal hr⟩
  | pd0 =>
    obtain ⟨-, -, -, -, -, -, -, hpd0, -⟩ := hcommand
    obtain ho | ho | ⟨ho, -⟩ := hpd0 hp
    · exact ⟨_, micro_pd0_pwrup hp ho⟩
    · exact ⟨_, micro_pd0_pwrdn hp ho⟩
    · exact ⟨_, micro_pd0_setgain hp ho⟩
  | pd1 => exact ⟨_, micro_pd1 hp⟩
  | fin => exact ⟨_, micro_fin hp⟩

/-- With nothing presented a step is the sequencer's, whether or not a command runs. -/
theorem step_of_host_nil {s : State} (h : s.host = []) : step s = micro s := by
  simp [step, turn, h]

/-- An idle block accepts a command or refuses it. -/
theorem exec_ne_fault (i : Instr) {s : State} (hb : s.busy = false) (r : Fault) : exec i s ≠ .fault r := by
  by_cases hi : ∀ k, i ≠ .tare 0 k
  · rw [idleBlockAcceptsEveryCommand s i hb hi]
    exact nofun
  · obtain ⟨k, rfl⟩ := not_forall_not.mp hi
    rw [exec_tare_zero k hb]
    exact nofun

/-- The host port refuses a frame or has it accepted. -/
theorem present_ne_fault (f : Frame) {s : State} (hb : s.busy = false) (r : Fault) : present f s ≠ .fault r := by
  cases hd : decode f with
  | error why => rw [present_of_decode_error hb hd]; exact nofun
  | ok i => rw [present_of_decode hb hd]; exact exec_ne_fault i hb r

/-- A reset begins or is refused. -/
theorem beginReset_ne_fault (q : ResetRequest) (s : State) (r : Fault) : beginReset q s ≠ .fault r := by
  unfold beginReset
  split_ifs <;> exact nofun

/-- Settles O50: the sequencer has a next state, and the host port raises no fault. -/
theorem noFaultUnderTheInvariant : Obligations.NoFaultUnderTheInvariant := by
  intro s r hi h
  obtain ⟨t, ht⟩ := hi.micro_next
  cases hb : s.busy with
  | true =>
    obtain hw | ⟨f, later, hf⟩ | ⟨q, later, hq⟩ := s.hostWaits_or_acts
    · cases ((step_of_busy hb hw).trans ht).symm.trans h
    · cases (step_of_busy_frameNow hb hf).symm.trans h
    · cases (step_of_busy_resetNow hb hq).symm.trans h
  | false =>
    obtain hnil | ⟨f, later, hp⟩ | ⟨q, later, hq⟩ := s.host_nil_or_presents_or_resets
    · cases ((step_of_host_nil hnil).trans ht).symm.trans h
    · exact present_ne_fault f (s := { s with host := later }) hb r ((step_of_presents hb hp).symm.trans h)
    · exact beginReset_ne_fault q _ r ((step_of_resets hb hq).symm.trans h)

end Sys2Proof.Machine

namespace Sys2Proof.Machine

/-! ### The step (40_acquisition.md R72, R73) -/

/-- Settles O6: the idle block presents the frame to the decoder and the command to its meaning. -/
theorem stepAcceptsTheDecodedCommand : Obligations.StepAcceptsTheDecodedCommand := by
  intro s f later i hb hp hd
  rw [step_of_presents hb hp]
  exact present_of_decode (s := { s with host := later }) hb hd

/-- Settles O8: a busy block is the sequencer's, and so is an idle one with nothing presented, in the row `IDLE`. -/
theorem stepRunsTheSequencerWhileBusy : Obligations.StepRunsTheSequencerWhileBusy := by
  exact ⟨fun s => step_of_busy, fun s ⟨_, hp⟩ hnil => (step_of_host_nil hnil).trans (micro_idle hp)⟩

/-- `s` with `h` as what the host will do. -/
def State.withHost (s : State) (h : List HostInput) : State := { s with host := h }

/-- No row of the micro-step table looks at the host: not its condition, where it has one, and not its writes (R73). -/
theorem micro_withHost (s : State) (h : List HostInput) :
    micro (s.withHost h) = mapNext (fun t => t.withHost h) (micro s) := by
  have hphase : (s.withHost h).seq.phase = s.seq.phase := rfl
  unfold micro
  rw [hphase]
  cases s.seq.phase with
  | poll | dsmp | dlo | ghi | judge | pd0 =>
    simp only [microPoll, microDsmp, microDlo, microGhi, microJudge, microPd0, mapNext_ite]
    rfl
  | idle | dhi | glo | ext | sub | stat | pd1 | fin => rfl

/-- Settles O9: both steps are the sequencer's, which does not look at the host. -/
theorem runningCommandIgnoresTheWaitingHost : Obligations.RunningCommandIgnoresTheWaitingHost := by
  intro s h hb hw hw'
  rw [step_of_busy hb hw, step_of_busy (s := { s with host := h }) hb hw']
  exact micro_withHost s h

/-! ### What a micro-step does to one lane (20_memory.md R39) -/

/-- Lane `l` after the row of phase `q.phase`, when its data line is at `level` and the row leaves `rsp` in `RSP`. -/
def Lane.afterRow (l : Lane) (q : Seq) (level : Bool) (rsp : Word) : Lane :=
  match q.phase with
  | .dsmp  => { l with acc := writeBit l.acc (23 - q.k.toNat) level }
  | .ext   => l.extend
  | .sub   => l.correct
  | .stat  => l.accumulate (q.tc == 0)
  | .judge => if rsp = 1 then l.commit q.al else l
  | .idle | .poll | .dhi | .dlo | .ghi | .glo | .pd0 | .pd1 | .fin => l

/-- In every row a lane becomes what the row makes of that lane and its own data line. -/
theorem MicroStep.lane {s t : State} (h : MicroStep s t) (i : Nat) :
    t.lanes[i]? = s.lanes[i]?.map fun l => l.afterRow s.seq (Sample.lane s.din i) t.rsp := by
  cases h <;> simp_all [Lane.afterRow]

/-- `RSP` is looked at in the row `JUDGE` only. -/
theorem Lane.afterRow_eq_of_rsp {q : Seq} {rsp rsp' : Word} (h : q.phase = .judge → rsp = rsp') (l : Lane)
    (level : Bool) : l.afterRow q level rsp = l.afterRow q level rsp' := by
  unfold Lane.afterRow
  cases hp : q.phase with
  | judge => rw [h hp]
  | _ => rfl

/-- Settles O35: what a row makes of a lane depends on what the two states have in common. -/
theorem lanesDoNotInteract : Obligations.LanesDoNotInteract := by
  intro s s' t t' i h h' hseq hlane hlevel hrsp
  rw [(microStep_of_micro h).lane i, (microStep_of_micro h').lane i, ← hseq, ← hlane, ← hlevel]
  congr 1
  funext l
  exact Lane.afterRow_eq_of_rsp hrsp l _

/-! ### Who writes what (10_state.md) -/

/-- An accepted command writes `BUSY`, the sequencer, and `GAIN` or `RSP`; nothing else. -/
theorem exec_frame {i : Instr} {s t : State} (h : exec i s = .next t) :
    t.cfg = s.cfg ∧ t.lanes = s.lanes ∧ t.sck = s.sck ∧ t.trace = s.trace := by
  obtain ⟨-, ⟨q, -, -, rfl⟩ | ⟨q, g, -, rfl⟩ | ⟨q, -, rfl⟩⟩ := exec_cases h <;> exact ⟨rfl, rfl, rfl, rfl⟩

/-- `ACC` is written in the rows `DSMP`, `EXT` and `SUB` only (R13). -/
theorem MicroStep.acc {s t : State} (h : MicroStep s t) :
    t.lanes.map Lane.acc = s.lanes.map Lane.acc ∨ s.seq.phase = .dsmp ∨ s.seq.phase = .ext ∨ s.seq.phase = .sub := by
  cases h with
  | dsmp hp => exact .inr (.inl hp)
  | extSub hp | extStat hp | extFin hp => exact .inr (.inr (.inl hp))
  | sub hp => exact .inr (.inr (.inr hp))
  | statMore | statLast | judgeCommit => exact .inl (by simp)
  | _ => exact .inl rfl

/-- Settles O36, by what a step can do: an acceptance writes no lane. -/
theorem accIsWrittenOnlyByShiftExtendSubtract : Obligations.AccIsWrittenOnlyByShiftExtendSubtract := by
  intro s t h
  obtain hm | ⟨_, _, _, -, -, -, he⟩ | ⟨r, _, hr, -, -⟩ := step_cases h
  · exact (microStep_of_micro hm).acc.imp_right .inl
  · obtain ⟨-, hlanes, -⟩ := exec_frame he
    exact .inl (by rw [hlanes])
  · exact .inr (.inr ⟨r, hr⟩)

/-- `OFFSET` is written in the row `JUDGE` only, which replaces all of them by the means or none (R14). -/
theorem MicroStep.offset {s t : State} (h : MicroStep s t) :
    t.lanes.map Lane.offset = s.lanes.map Lane.offset ∨
    (s.seq.phase = .judge ∧ t.rsp = 1 ∧ t.lanes.map Lane.offset = s.lanes.map fun l => meanWord l.sum s.seq.al) := by
  cases h with
  | judgeCommit hp => exact .inr ⟨hp, rfl, by simp⟩
  | dsmp => exact .inl (List.ext_getElem (by simp) (by simp))
  | extSub | extStat | extFin | sub | statMore | statLast => exact .inl (by simp)
  | _ => exact .inl rfl

/-- Settles O37, by what a step can do: an acceptance writes no lane, and a reset makes the lanes anew. -/
theorem offsetsAreWrittenOnlyByCommitAndReset : Obligations.OffsetsAreWrittenOnlyByCommitAndReset := by
  intro s t h
  obtain hm | ⟨_, _, _, -, -, -, he⟩ | ⟨r, _, hr, -, rfl⟩ := step_cases h
  · exact (microStep_of_micro hm).offset.imp_right .inl
  · obtain ⟨-, hlanes, -⟩ := exec_frame he
    exact .inl (by rw [hlanes])
  · exact .inr (.inr ⟨r, hr, map_offset_freshLanes _ _⟩)

/-- `RSP` is written in the row `JUDGE` only (R21). -/
theorem MicroStep.rsp {s t : State} (h : MicroStep s t) :
    t.rsp = s.rsp ∨ s.seq.phase = .judge ∧ (t.rsp = 1 ∨ t.rsp = 0) := by
  cases h with
  | judgeReject hp => exact .inr ⟨hp, .inr rfl⟩
  | judgeCommit hp => exact .inr ⟨hp, .inl rfl⟩
  | _ => exact .inl rfl

/-- Settles O39, by what a step can do; of the commands CHCNT alone writes `RSP` when it is accepted. -/
theorem rspIsWrittenOnlyByTareAndChcnt : Obligations.RspIsWrittenOnlyByTareAndChcnt := by
  intro s t h
  obtain hm | ⟨f, later, i, hb, hp, hd, he⟩ | ⟨r, _, hr, -, rfl⟩ := step_cases h
  · exact (microStep_of_micro hm).rsp.imp_right .inl
  · obtain ⟨-, ⟨q, -, -, rfl⟩ | ⟨q, g, -, rfl⟩ | ⟨q, rfl, rfl⟩⟩ := exec_cases he
    · exact .inl rfl
    · exact .inl rfl
    · exact .inr (.inr (.inl ⟨⟨hb, f, later, hp, hd⟩, rfl⟩))
  · exact .inr (.inr (.inr ⟨r, hr, rfl⟩))

theorem MicroStep.cfg {s t : State} (h : MicroStep s t) : t.cfg = s.cfg := by
  cases h <;> rfl

/-- Settles O40, by what a step can do. -/
theorem configurationIsFixedBetweenResets : Obligations.ConfigurationIsFixedBetweenResets := by
  intro s t h
  obtain hm | ⟨_, _, _, -, -, -, he⟩ | ⟨r, _, hr, -, rfl⟩ := step_cases h
  · exact .inl (microStep_of_micro hm).cfg
  · exact .inl (exec_frame he).1
  · exact .inr ⟨r, hr, rfl, length_freshLanes _ _⟩

/-- The event of a row: none, a sample, or a clock write, after which `SCK` has that level (R72). -/
theorem MicroStep.event {s t : State} (h : MicroStep s t) :
    ∃ es : List Event, es.length ≤ 1 ∧ t.trace = s.trace ++ es ∧ t.sck = clockLevel s.sck es := by
  cases h with
  | pollReady | pollWait | dsmp => exact ⟨[.smp s.din], le_rfl, rfl, rfl⟩
  | dhiSampling | dhiPlain | ghi | pd1 => exact ⟨[.ck true], le_rfl, rfl, rfl⟩
  | dloMore | dloLast | gloMore | gloExt | gloFin | pd0Pwrdn | pd0Pwrup | pd0Setgain =>
    exact ⟨[.ck false], le_rfl, rfl, rfl⟩
  | _ => exact ⟨[], Nat.zero_le _, (List.append_nil _).symm, rfl⟩

/-- Settles O42, by what a step can do: an acceptance has no event, and the first turn of a reset is a LOW write. -/
theorem atMostOnePinEventAStep : Obligations.AtMostOnePinEventAStep := by
  intro s t h
  obtain hm | ⟨_, _, _, -, -, -, he⟩ | ⟨r, _, -, -, rfl⟩ := step_cases h
  · exact (microStep_of_micro hm).event
  · obtain ⟨-, -, hsck, htrace⟩ := exec_frame he
    exact ⟨[], Nat.zero_le _, by simpa using htrace, hsck⟩
  · exact ⟨[.ck false], le_rfl, rfl, rfl⟩

/-- `BUSY` is cleared in the row `FIN`, and no row sets it (R20). -/
theorem MicroStep.busy {s t : State} (h : MicroStep s t) :
    s.seq.phase = .fin ∧ t.busy = false ∨ s.seq.phase ≠ .fin ∧ t.busy = s.busy := by
  cases h with
  | fin hp => exact .inl ⟨hp, rfl⟩
  | _ => exact .inr ⟨by simp [*], rfl⟩

/-- Settles O43: the sequencer's row `FIN`, and the port, which looks at `BUSY` first. -/
theorem busyFromAcceptanceToFin : Obligations.BusyFromAcceptanceToFin := by
  refine ⟨fun s t h hb => ?_, fun s t h hb ht => ?_, fun i s t h => ?_, fun s f later hb hf => ?_⟩
  · obtain hm | ⟨_, _, _, hidle, -⟩ | ⟨_, _, ⟨hidle, -⟩, -⟩ := step_cases h
    · obtain ⟨hp, ht⟩ | ⟨hp, ht⟩ := (microStep_of_micro hm).busy
      · exact iff_of_true ht hp
      · exact iff_of_false (by simp [ht, hb]) hp
    · simp [hb] at hidle
    · simp [hb] at hidle
  · obtain hm | ⟨f, later, i, -, hp, hd, -⟩ | ⟨r, _, hr, -⟩ := step_cases h
    · obtain ⟨-, ht'⟩ | ⟨-, ht'⟩ := (microStep_of_micro hm).busy <;> simp [ht', hb] at ht
    · exact .inl ⟨i, hb, f, later, hp, hd⟩
    · exact .inr ⟨r, hr⟩
  · obtain ⟨hb, ⟨q, -, -, rfl⟩ | ⟨q, g, -, rfl⟩ | ⟨q, -, rfl⟩⟩ := exec_cases h <;> exact ⟨hb, rfl⟩
  · exact step_of_busy_frameNow hb hf

/-- Settles O44: the two reads are guarded by `BUSY`. -/
theorem hostReadsResultsOnlyWhenIdle : Obligations.HostReadsResultsOnlyWhenIdle := by
  refine fun s => ⟨fun hb => ?_, fun hb => ?_⟩ <;> simp [State.hostAcc, State.hostRsp, hb]

/-- Settles O45: the clock line is none of the data lines, so the two tests of the direction never both hold. -/
theorem clockLineIsOutputAndDataLinesAreInputs : Obligations.ClockLineIsOutputAndDataLinesAreInputs := by
  intro c hwf
  obtain ⟨-, -, -, hnodup, -⟩ := Config.wellFormed_iff.mp hwf
  obtain ⟨hclock, -⟩ := List.nodup_cons.mp hnodup
  refine ⟨if_pos rfl, fun pin hpin => ?_, fun pin h => ?_⟩
  · have hne : pin ≠ c.cpin := fun he => hclock (he ▸ hpin)
    simp [Config.direction, hne, hpin]
  · by_contra hne
    unfold Config.direction at h
    split_ifs at h
    cases h

end Sys2Proof.Machine

namespace Sys2Proof.Machine

/-! ### The reconstructed sample (40_acquisition.md R68) -/

/-- The field is the weighted sum of its bits, for a field of any width. -/
theorem fieldValue_eq_sum (data : List Sample) (i : Nat) :
    fieldValue data i =
      ((List.range data.length).map fun k =>
        (Sample.lane (data[k]?.getD []) i).toNat * 2 ^ (data.length - 1 - k)).sum := by
  induction data using List.reverseRecOn with
  | nil => rfl
  | append_singleton data v ih =>
    have hterm : ∀ k ∈ List.range data.length,
        (Sample.lane ((data ++ [v])[k]?.getD []) i).toNat * 2 ^ (data.length - k) =
          2 * ((Sample.lane (data[k]?.getD []) i).toNat * 2 ^ (data.length - 1 - k)) := fun k hk => by
      have hk : k < data.length := List.mem_range.mp hk
      rw [List.getElem?_append_left hk, show data.length - k = data.length - 1 - k + 1 by omega, Nat.pow_succ]
      ring
    rw [fieldValue_append, ih, List.length_append, List.length_singleton, Nat.add_sub_cancel, List.range_succ,
      List.map_append, List.sum_append, List.map_congr_left hterm, List.sum_map_mul_left]
    simp

/-- R68's sum of the 24 bits is the field. -/
theorem fieldSum_eq_fieldValue {data : List Sample} (i : Nat) (hd : data.length = 24) :
    fieldSum data i = fieldValue data i := by
  rw [fieldValue_eq_sum, hd]
  rfl

/-- `sext_24` of a field: the field itself below `2^23`, and the field less `2^24` from there on (00_scope.md R10). -/
theorem toInt_rawSample {data : List Sample} (i : Nat) (hd : data.length = 24) :
    (rawSample data i).toInt = if fieldValue data i < 2 ^ 23 then (fieldValue data i : Int)
      else (fieldValue data i : Int) - 2 ^ 24 := by
  have hlt := fieldValue_lt data i
  rw [hd] at hlt
  rw [rawSample, BitVec.toInt_signExtend_of_le (by omega), BitVec.toInt_eq_toNat_cond, BitVec.toNat_ofNat,
    Nat.mod_eq_of_lt hlt]
  split_ifs <;> omega

/-- Settles O18: the shift-in and the sign extension leave the raw sample, and its field is R68's sum. -/
theorem reconstructionIgnoresStaleBits : Obligations.ReconstructionIgnoresStaleBits := by
  intro data i stale hd
  have hacc : (signExtend24 (shiftedIn stale data i 24)).toInt = _ :=
    (congrArg BitVec.toInt (signExtend24_shiftedIn stale data i hd)).trans (toInt_rawSample i hd)
  rw [fieldSum_eq_fieldValue i hd]
  refine ⟨hd ▸ fieldValue_lt data i, fun h => ?_, fun h => ?_⟩
  · exact hacc.trans (if_pos h)
  · exact hacc.trans (if_neg h.not_gt)

/-! ### The pulses of a frame (00_scope.md R12, 40_acquisition.md R71) -/

/-- A clock pulse with the samples `vs` taken while the clock is HIGH. -/
def pulse (vs : List Sample) : List Event := .ck true :: (vs.map .smp ++ [.ck false])

/-- Polls, and then one pulse for each entry of `pulses`: the shape of both traces of a frame. -/
def pulseTrain (polls : List Sample) (pulses : List (List Sample)) : List Event :=
  polls.map .smp ++ pulses.flatMap pulse

theorem FrameInput.samplingTrace_eq_pulseTrain (inp : FrameInput) (n : Nat) (gain : BitVec 2) :
    inp.samplingTrace n gain =
      pulseTrain (inp.polls ++ [allLow n]) (inp.data.map (fun v => [v]) ++ List.replicate gain.toNat []) := by
  have hdata : dataPulse = fun v => pulse [v] := rfl
  simp [samplingTrace, pulseTrain, pulse, hdata, plainPulse, List.flatMap_map, List.flatMap_replicate]

theorem FrameInput.flushTrace_eq_pulseTrain (inp : FrameInput) (n : Nat) (gain : BitVec 2) :
    inp.flushTrace n gain = pulseTrain (inp.polls ++ [allLow n]) (List.replicate (24 + gain.toNat) []) := by
  simp [flushTrace, pulseTrain, pulse, plainPulse, List.flatMap_replicate]

section
variable (level rose : Bool) (vs polls : List Sample) (es : List Event) (pulses : List (List Sample))

/-! Samples are no clock events: they change none of the three counts of edges and pulses. -/

@[simp] theorem clockPulses_samples : clockPulses level rose (vs.map .smp ++ es) = clockPulses level rose es := by
  induction vs with
  | nil => rfl
  | cons v vs ih => exact ih

@[simp] theorem risingEdges_samples : risingEdges level (vs.map .smp ++ es) = risingEdges level es := by
  induction vs with
  | nil => rfl
  | cons v vs ih => exact ih

@[simp] theorem clockLevel_samples : clockLevel level (vs.map .smp ++ es) = clockLevel level es := by
  induction vs with
  | nil => rfl
  | cons v vs ih => exact ih

@[simp] theorem sampleCount_samples : sampleCount (vs.map .smp ++ es) = vs.length + sampleCount es := by
  induction vs with
  | nil => simp
  | cons v vs ih =>
    rw [List.map_cons, List.cons_append, sampleCount, ih, List.length_cons]
    omega

/-! One pulse, started with the clock LOW, is one clock pulse, one rising edge and its samples. -/

theorem clockPulses_pulse : clockPulses false false (pulse vs ++ es) = 1 + clockPulses false false es := by
  simp [pulse, clockPulses]

theorem risingEdges_pulse : risingEdges level (pulse vs ++ es) = (if level then 0 else 1) + risingEdges false es := by
  cases level <;> simp [pulse, risingEdges]

theorem sampleCount_pulse : sampleCount (pulse vs ++ es) = vs.length + sampleCount es := by
  simp [pulse, sampleCount]

theorem clockLevel_pulse : clockLevel level (pulse vs ++ es) = clockLevel false es := by
  simp [pulse, clockLevel]

/-! A train of pulses, by induction on their number. -/

theorem clockPulses_pulseTrain : clockPulses false false (pulseTrain polls pulses) = pulses.length := by
  rw [pulseTrain, clockPulses_samples]
  induction pulses with
  | nil => rfl
  | cons vs pulses ih => rw [List.flatMap_cons, clockPulses_pulse, ih, List.length_cons, Nat.add_comm]

theorem sampleCount_pulseTrain :
    sampleCount (pulseTrain polls pulses) = polls.length + (pulses.map List.length).sum := by
  rw [pulseTrain, sampleCount_samples]
  induction pulses with
  | nil => rfl
  | cons vs pulses ih =>
    rw [List.flatMap_cons, sampleCount_pulse, List.map_cons, List.sum_cons]
    omega

theorem risingEdges_pulses : risingEdges false (pulses.flatMap pulse) = pulses.length := by
  induction pulses with
  | nil => rfl
  | cons vs pulses ih => rw [List.flatMap_cons, risingEdges_pulse, ih, List.length_cons, Nat.add_comm]; rfl

/-- With the clock HIGH at the start the first rise is no edge (R91). -/
theorem risingEdges_pulseTrain (h : pulses ≠ []) :
    risingEdges true (pulseTrain polls pulses) + 1 = pulses.length := by
  obtain ⟨vs, pulses, rfl⟩ := List.exists_cons_of_ne_nil h
  rw [pulseTrain, risingEdges_samples, List.flatMap_cons, risingEdges_pulse, risingEdges_pulses, List.length_cons]
  simp

theorem clockLevel_pulses : clockLevel false (pulses.flatMap pulse) = false := by
  induction pulses with
  | nil => rfl
  | cons vs pulses ih => rw [List.flatMap_cons, clockLevel_pulse, ih]

theorem clockLevel_pulseTrain (h : pulses ≠ []) : clockLevel level (pulseTrain polls pulses) = false := by
  obtain ⟨vs, pulses, rfl⟩ := List.exists_cons_of_ne_nil h
  rw [pulseTrain, clockLevel_samples, List.flatMap_cons, clockLevel_pulse, clockLevel_pulses]

end

/-- Settles O19: both traces are trains of pulses, of which a sampling frame has 24 with one sample each. -/
theorem everyFrameHas24PlusGainPulses : Obligations.EveryFrameHas24PlusGainPulses := by
  intro inp n gain hwf
  obtain ⟨-, -, hl⟩ := FrameInput.wellFormed_iff.mp hwf
  rw [if_pos rfl] at hl
  have hsampling : (inp.data.map (fun v => [v]) ++ List.replicate gain.toNat []).length = 24 + gain.toNat := by
    simp [hl]
  have hflush : (List.replicate (24 + gain.toNat) ([] : List Sample)).length = 24 + gain.toNat := List.length_replicate
  have hsampling0 := List.ne_nil_of_length_pos (hsampling ▸ (by omega : 0 < 24 + gain.toNat))
  have hflush0 := List.ne_nil_of_length_pos (hflush ▸ (by omega : 0 < 24 + gain.toNat))
  rw [FrameInput.samplingTrace_eq_pulseTrain, FrameInput.flushTrace_eq_pulseTrain]
  refine ⟨?_, ?_, ?_, ?_, ?_, ?_, ?_, ?_⟩
  · rw [clockPulses_pulseTrain, hsampling]
  · rw [clockPulses_pulseTrain, hflush]
  · simp [sampleCount_pulseTrain, hl, Function.comp_def]
  · simp [sampleCount_pulseTrain]
  · rw [risingEdges_pulseTrain _ _ hsampling0, hsampling]
  · rw [risingEdges_pulseTrain _ _ hflush0, hflush]
  · exact clockLevel_pulseTrain _ _ _ hsampling0
  · exact clockLevel_pulseTrain _ _ _ hflush0

end Sys2Proof.Machine

namespace Sys2Proof.Machine

/-! ### Reset: the first turn, then SETGAIN's sequence (70_reset_and_hazards.md R133) -/

/-- The step in which a reset with a legal configuration is asserted at an idle block is its first turn (R133). -/
theorem step_of_resets_of_wellFormed {s : State} {r : ResetRequest} {later : List HostInput} (hb : s.busy = false)
    (hr : s.Resets r later) (hwf : r.cfg.wellFormed = true) :
    step s = .next (({ s with host := later } : State).constructed r) := by
  rw [step_of_resets hb hr]
  simp [beginReset, hb, hwf]

/-- Settles O14: a command with a frame is accepted into the wait or into SETGAIN's sequence, and so is a reset; neither
completes while ENV does not answer `0^N`. -/
theorem neverReadyNeverCompletes : Obligations.NeverReadyNeverCompletes := by
  refine ⟨fun s t i m ⟨hb, _⟩ hw hnot hi h => ?_, fun s t r later m ⟨hb, hwf, _⟩ hr hw hnot h => ?_⟩
  · obtain ⟨hup, hdn, hchcnt⟩ := hi
    cases i with
    | readraw  => cases (exec_readraw hb).symm.trans h; exact busy_while_not_ready hw rfl hnot
    | readrawF => cases (exec_readrawF hb).symm.trans h; exact busy_while_not_ready hw rfl hnot
    | read     => cases (exec_read hb).symm.trans h; exact busy_while_not_ready hw rfl hnot
    | readF    => cases (exec_readF hb).symm.trans h; exact busy_while_not_ready hw rfl hnot
    | tare n k =>
      by_cases hn : n = 0
      · subst hn; cases (exec_tare_zero k hb).symm.trans h
      · cases (exec_tare k hb hn).symm.trans h; exact busy_while_not_ready hw rfl hnot
    | setgain g =>
      cases (exec_setgain g hb).symm.trans h
      exact gainSequence_busy_while_not_ready (s := { s with gain := gainAfter g s.gain }) (hw.of_host_eq rfl) rfl rfl
        hnot
    | pwrup    => exact absurd rfl hup
    | pwrdn    => exact absurd rfl hdn
    | chcnt    => exact absurd rfl hchcnt
  · cases (step_of_resets_of_wellFormed hb hr hwf).symm.trans h
    exact gainSequence_busy_while_not_ready (s := ({ s with host := later } : State).constructed r)
      (hw.of_host_eq rfl) rfl rfl hnot

/-- Settles O46: after its first turn a reset is in SETGAIN's sequence, with every register but `SCK` and the sequencer
at its final value. -/
theorem resetSequenceLeavesTheResetValues : Obligations.ResetSequenceLeavesTheResetValues := by
  refine ⟨fun s r later hb hr hwf => ?_, fun s r later inp gain ⟨hb, _⟩ hr hwf hw hgain hinp hears => ?_⟩
  · rw [step_of_resets hb hr]
    exact (beginReset_eq_refused_iff (s := { s with host := later }) hb).mpr ⟨rfl, hwf⟩
  · obtain ⟨-, -, -, -, hsel⟩ := Config.wellFormed_iff.mp hwf
    have hg : gain = gainAfter r.cfg.initGain s.gain := by
      rw [hgain, gainAfter_eq]
      rcases hsel with h | h | h <;> rw [h] <;> rfl
    have hg0 : gain ≠ 0 := by
      rw [hgain]
      split_ifs <;> decide
    subst hg
    obtain ⟨q, hq, hrun⟩ := gainSequence_completes
      (s := { ({ s with host := later } : State).constructed r with busy := false })
      (q := (({ s with host := later } : State).constructed r).seq) (inp := inp)
      rfl (hw.of_host_eq rfl) hg0 rfl rfl rfl hinp hears
    refine ⟨_, _, step_of_resets_of_wellFormed hb hr hwf, rfl, hrun, ⟨rfl, hq⟩, rfl, rfl, rfl, rfl,
      map_offset_freshLanes _ _, ?_, rfl, rfl, rfl, ?_⟩
    · simp [State.constructed, freshLanes]
    · simp [State.constructed]

/-! ### Calibration (43_calibration.md) -/

/-- Settles O27: under the invariant both operands are raw samples. -/
theorem readSubtractionNeverWraps : Obligations.ReadSubtractionNeverWraps := by
  intro s l data i ⟨_, _, _, hoffsets, _⟩ hl
  have hraw := rawRange_rawSample data i
  have hoffset := hoffsets l hl
  rw [toInt_sub_of_rawRange hraw hoffset]
  obtain ⟨hraw1, hraw2⟩ := hraw
  obtain ⟨hoffset1, hoffset2⟩ := hoffset
  omega

/-- Settles O30: under the invariant `STAT` finds raw samples, statistics in order and a sample left to count. -/
theorem statisticsAreExact : Obligations.StatisticsAreExact := by
  intro s hi hw hp
  obtain ⟨htc, hlanes⟩ := hi.of_stat hp
  have hb : s.busy = true := by
    obtain ⟨-, -, hbusy, -⟩ := hi
    exact hbusy.mpr (by simp [hp])
  have hnext : (s.seq.tc + 1).toNat = s.seq.tc.toNat + 1 := by bv_omega
  have hmore : s.seq.tc + 1 < s.seq.al ↔ s.seq.tc.toNat + 1 < s.seq.al.toNat := by rw [BitVec.lt_def, hnext]
  refine ⟨_, (step_of_busy hb hw).trans (micro_stat hp), List.length_map _, hnext, ?_, fun i l hl => ?_⟩
  · simp only [hmore]
  · obtain ⟨hacc, hstats⟩ := hlanes l (List.mem_of_getElem? hl)
    refine ⟨l.accumulate (s.seq.tc == 0), ?_, l.accumulate_acc _, l.accumulate_offset _, l.accumulate_of_first,
      fun h => Lane.accumulate_of_later h (by bv_omega) hacc (hstats h)⟩
    rw [List.getElem?_map, hl, Option.map_some]

/-- Settles O31: the two branches of the row `JUDGE`. -/
theorem judgeCommitsAllOffsetsOrNone : Obligations.JudgeCommitsAllOffsetsOrNone := by
  intro s hb hw hp ha
  rw [← tareRejects_iff, step_of_busy hb hw]
  refine ⟨fun h => micro_judge_reject hp ha h, fun h => ?_⟩
  rw [micro_judge_commit hp ha (Bool.eq_false_iff.mpr h)]
  rfl

/-- A rejected attempt leaves the offsets as they were (R104). -/
theorem State.tared_of_rejected {s : State} {t k : Word} {frames : List FrameInput}
    (h : attemptRejected t k s.cfg.n frames = true) :
    (s.tared t k frames).rsp = 0 ∧ (s.tared t k frames).lanes.map Lane.offset = s.lanes.map Lane.offset := by
  refine ⟨by simp [State.tared, h], List.ext_getElem ?_ fun i _ _ => ?_⟩ <;> simp [State.tared, taredLanes, h]

/-- Settles O32: the spread of a channel is the difference of two of its samples, and no two differ by more. -/
theorem spreadOfKIsAcceptedAndOfKPlusOneRejected : Obligations.SpreadOfKIsAcceptedAndOfKPlusOneRejected := by
  intro s t k frames ⟨hb, _⟩ hw hg hn ht hk hl hwf hears
  have ht0 : t ≠ 0 := by bv_omega
  have hf := ne_nil_of_length_eq_toNat ht0 hl
  refine ⟨_, _, exec_tare_eq_tareTaken k hb ht0, tareSequence_completes hb hw hg hn ht0 hl hwf hears, ⟨hb, rfl⟩,
    fun hall => ?_, fun ⟨i, hi, x, hx, y, hy, hxy⟩ => ?_⟩
  · refine State.tared_rsp_of_accepted (Bool.eq_false_iff.mpr fun hrej => ?_)
    obtain ⟨-, -, i, hi, hspread⟩ := attemptRejected_iff.mp hrej
    have := hall i hi _ (greatestSample_mem_tareSamples hf i) _ (leastSample_mem_tareSamples hf i)
    omega
  · refine State.tared_of_rejected (attemptRejected_iff.mpr ⟨hk, ht, i, hi, ?_⟩)
    have hgreatest := (greatestSample_mem_and_ge (tareSamples_ne_nil hf i)).2 x hx
    have hleast := (leastSample_mem_and_le (tareSamples_ne_nil hf i)).2 y hy
    omega

end Sys2Proof.Machine
